-- ==== Sys2Proof/Syntax.lean ====
section
/-! DEFINITION. The instructions of the PCFE: the five operations a host issues through the OP register (R2, R141). -/

namespace Sys2Proof

/-- The five operations, one constructor per row of `spec/opcode_table.json`. None has an operand field: every
operand is implicit, a fixed named register or buffer (R30, R140, R145). -/
inductive Instr where
  /-- MAC_SIGN, R203: the tag of IN_BUF under the signing key. -/
  | macSign
  /-- MAC_VERIFY, R204: check the TAG bank against IN_BUF under the verification key. -/
  | macVerify
  /-- BUILD, R220: serialise and sign one command packet. -/
  | build
  /-- PARSE, R250: validate the packet in IN_BUF and report its fields. -/
  | parse
  /-- INSPECT, R290: the firewall decision on the packet in IN_BUF. -/
  | inspect
deriving DecidableEq, Repr

end Sys2Proof
end

