-- ==== Sys2Proof/Word.lean ====
section
/-! DEFINITION. The PCFE's two bit-vector types: the byte of a byte string (R11) and the 32-bit bus word (R103). -/

namespace Sys2Proof

/-- One byte of a byte string, a buffer or a store (R11). -/
abbrev Byte := BitVec 8

/-- One 32-bit word of the bus (R103); every register is reached as one (R33). -/
abbrev Word := BitVec 32

end Sys2Proof
end

