-- ==== Sys2Proof/WellFormed.lean ====
section
/-! DEFINITION. Well-formedness. An operation has no operand, so every term of `Instr` is well-formed; what can be
ill-formed is the operation word (format OPW, R140), whose two fields are checked here one by one. -/

namespace Sys2Proof

/-- The two fields of format OPW (R140), as a host writes them before they are packed into one word. -/
structure OpWord where
  /-- OPCODE, bits [7:0]. -/
  opcode : BitVec 8
  /-- RSVD, bits [31:8]. -/
  rsvd : BitVec 24
deriving DecidableEq, Repr

/-- R142: the reserved bits are zero. -/
def OpWord.rsvdZero (x : OpWord) : Bool := x.rsvd == 0

/-- R141, R143: the opcode is one of 0x01 to 0x05. -/
def OpWord.opcodeLegal (x : OpWord) : Bool := decide (1 ≤ x.opcode.toNat) && decide (x.opcode.toNat ≤ 5)

/-- An operation word is well-formed when both fields are. -/
def OpWord.wf (x : OpWord) : Bool := x.rsvdZero && x.opcodeLegal

/-- Every operation is well-formed: it has no register field, no immediate and no mode (R140). -/
def Instr.wf : Instr → Bool
  | .macSign => true
  | .macVerify => true
  | .build => true
  | .parse => true
  | .inspect => true

end Sys2Proof
end

