-- ==== Sys2Proof/Decode.lean ====
section
/-! DEFINITION. The decoder of the operation word (R140 to R144), total on every 32-bit word and rejecting by name,
and after it the encoder. -/

namespace Sys2Proof

/-- Why a word is no operation. Both complete at once as ILLEGAL_OP (R323). -/
inductive DecodeReject where
  /-- A bit of [31:8] is set (R142). -/
  | reservedBits
  /-- OPCODE is 0x00 or 0x06 to 0xFF (R143). -/
  | illegalOpcode
deriving DecidableEq, Repr

/-- OPCODE, bits [7:0] of the operation word (R140). -/
def opcodeOf (w : Word) : BitVec 8 := w.extractLsb' 0 8

/-- RSVD, bits [31:8] of the operation word (R140). -/
def rsvdOf (w : Word) : BitVec 24 := w.extractLsb' 8 24

/-- The opcode map (R141). -/
def decodeOpcode (c : BitVec 8) : Option Instr :=
  if c = 0x01#8 then some .macSign
  else if c = 0x02#8 then some .macVerify
  else if c = 0x03#8 then some .build
  else if c = 0x04#8 then some .parse
  else if c = 0x05#8 then some .inspect
  else none

/-- The decoder of a whole operation word: the reserved bits are never ignored (R142), and an opcode outside the
map is illegal (R143). There is no length logic (R144). -/
def decode (w : Word) : Except DecodeReject Instr :=
  if rsvdOf w = 0 then
    match decodeOpcode (opcodeOf w) with
    | some i => .ok i
    | none => .error .illegalOpcode
  else .error .reservedBits

/-- The decoder on a word numbered as `spec/opcode_table.json` numbers it (one 32-bit word; bits at and above
`nbits` are zero). -/
def decodeTableWord (nbits w : Nat) : Option Instr :=
  let v := w % 2 ^ nbits
  if v < 2 ^ 32 then
    match decode (BitVec.ofNat 32 v) with
    | .ok i => some i
    | .error _ => none
  else none

/-- The OPCODE of an operation (R141). -/
def opcode : Instr → BitVec 8
  | .macSign => 0x01
  | .macVerify => 0x02
  | .build => 0x03
  | .parse => 0x04
  | .inspect => 0x05

/-- The fields of an operation's word (R140): RSVD is zero. -/
def opWord (i : Instr) : OpWord := { opcode := opcode i, rsvd := 0 }

/-- Format OPW packed into one word (R140): RSVD in bits [31:8], OPCODE in bits [7:0]. -/
def packOpWord (x : OpWord) : Word := x.rsvd ++ x.opcode

/-- The encoder: the word of an operation (R140, R141). -/
def encode (i : Instr) : Word := packOpWord (opWord i)

end Sys2Proof
end

