-- ==== Sys2Proof/Machine/Bytes.lean ====
section
/-! DEFINITION. Byte strings: the big-endian integers of the wire (R11, R102) and the little-endian lanes of the bus
(R104). -/

namespace Sys2Proof
namespace Machine

/-- The big-endian number of a byte string: `be16` and `be64` of R11 on strings of 2 and 8 bytes. -/
def beNat (s : List Byte) : Nat := s.foldl (fun acc b => acc * 256 + b.toNat) 0

/-- The `n`-byte big-endian string of `v`: byte i is the digit of weight 256^(n-1-i) (R11). -/
def encBE : Nat → Nat → List Byte
  | 0, _ => []
  | n + 1, v => BitVec.ofNat 8 (v / 256 ^ n) :: encBE n v

/-- `enc16`, R11. -/
def enc16 (v : Nat) : List Byte := encBE 2 v

/-- `enc64`, R11. -/
def enc64 (v : Nat) : List Byte := encBE 8 v

/-- `be16` of a 2-byte string as the 16-bit word whose fields R151 to R153 name. -/
def be16 (s : List Byte) : BitVec 16 := BitVec.ofNat 16 (beNat s)

/-- `be64` of an 8-byte string. -/
def be64 (s : List Byte) : BitVec 64 := BitVec.ofNat 64 (beNat s)

/-- The word with bytes 4k to 4k+3 in its lanes: byte 4k+i in bits [8i+7:8i] (R104). -/
def laneWord (b0 b1 b2 b3 : Byte) : Word := b3 ++ b2 ++ b1 ++ b0

/-- Lane i of a word: bits [8i+7:8i] (R104). -/
def lane (w : Word) (i : Nat) : Byte := w.extractLsb' (8 * i) 8

/-- The four bytes a word holds, lane 0 first (R104). -/
def laneBytes (w : Word) : List Byte := [lane w 0, lane w 1, lane w 2, lane w 3]

end Machine
end Sys2Proof
end

