-- ==== Sys2Proof/Config.lean ====
section
/-! DEFINITION. What an implementation fixes (the parameters of R6), the model arguments the spec leaves OPEN, and the
free values. An `opaque` constant has no body: no proof can see what it is, so a claim holds whatever it is. -/

namespace Sys2Proof
namespace Config

/-- DIGEST_LEN, R6. -/
abbrev digestLen : Nat := 32
/-- HDR_LEN, R6. -/
abbrev hdrLen : Nat := 6
/-- SEC_FIXED, R6: timestamp and ID length. -/
abbrev secFixed : Nat := 10
/-- SEQ_MOD, R6. -/
abbrev seqMod : Nat := 16384
/-- PARSE_MIN, R6: HDR_LEN + DIGEST_LEN. -/
abbrev parseMin : Nat := 38
/-- PKT_MIN, R6. -/
abbrev pktMin : Nat := 50
/-- PKT_MAX, R6. -/
abbrev pktMax : Nat := 65542
/-- BODY_MAX, R6: the largest ID length plus command length. -/
abbrev bodyMax : Nat := 65492
/-- KEY_MAX, R6. -/
abbrev keyMax : Nat := 256
/-- N_ALLOW, R6. -/
abbrev nAllow : Nat := 16
/-- ALLOW_MAX, R6. -/
abbrev allowMax : Nat := 256
/-- GSID_CAP, R6. -/
abbrev gsidCap : Nat := 65536
/-- CMDSTR_CAP, R6. -/
abbrev cmdstrCap : Nat := 65536
/-- OUT_CAP, R6. -/
abbrev outCap : Nat := 65544
/-- IN_CAP, R6. -/
abbrev inCap : Nat := 65544
/-- The length of the host's aperture, R100: byte offsets 0x00000 to 0x7FFFF. -/
abbrev apertureLen : Nat := 0x80000

/-- BASE, R6 and R100: the bus address of the aperture, a model argument (log 4). -/
opaque base : Nat

/-- `MacFn key msg`, R7: the MAC, an uninterpreted model argument (log 3). Its result has DIGEST_LEN bytes by its
type; nothing else is known of it. -/
opaque macFn : List Byte → List Byte → Vector Byte 32

/-- R112: the value a host read draws for the lane of an unwritten buffer byte. It is applied to the counter
`State.draws`, so each read draws afresh (log 6). -/
opaque freeByte : Nat → Byte

/-- R204: bytes 32 and on of the provided tag when TAG_LEN > 32, "any string of length TAG_LEN" (log 9). -/
opaque freeTagByte : Nat → Byte

/-- R376, I21: the time a tag comparison takes, a function of the two lengths alone (log 13). -/
opaque ctEqCost : Nat → Nat → Nat

end Config
end Sys2Proof
end

