-- ==== Sys2Proof/Machine/State.lean ====
section
/-! DEFINITION. The state of the PCFE as plain data: every register, store, buffer and hidden latch of 10_state.md, the
inputs of the outside agents as a list, and the reset state (R85). -/

namespace Sys2Proof
namespace Machine

/-! ### Names the spec gives to sets of values -/

/-- The result codes of R170, by name. -/
inductive ResultCode where
  | ok | tooShort | badHeader | fragmented | lengthMismatch | secHdrTruncated | idIncomplete | idNotUtf8
  | cmdLenMissing | cmdTruncated | cmdNotUtf8 | trailingBytes | notAuthorized | authFailed | pktTooLong
  | buildIdNotUtf8 | buildCmdNotUtf8 | illegalOp | notLocked | badLength
deriving DecidableEq, Repr

/-- The telemetry event kinds of R172, by name. -/
inductive EventKind where
  | none | decodeFailure | unauthorizedGs | authFailed | accepted
deriving DecidableEq, Repr

/-- The four buffers (R101). -/
inductive BufId where
  | gsid | cmdstr | out | inb
deriving DecidableEq, Repr

/-! ### Registers with fields -/

/-- CTRL (R34); its reserved bits read 0 and ignore writes, so only the fields are state. -/
structure Ctrl where
  lock : Bool
  utf8Check : Bool
  trailCheck : Bool
  timeRun : Bool
deriving DecidableEq, Repr

/-- STATUS (R36); the reserved bits read 0. -/
structure Status where
  busy : Bool
  done : Bool
  ok : Bool
  accept : Bool
  result : BitVec 8
  cls : BitVec 3
  event : BitVec 3
  severity : BitVec 2
deriving DecidableEq, Repr

/-- The four bits of IRQ_STATUS (R37) and of IRQ_ENABLE (R38). -/
structure Irq where
  done : Bool
  cmdErr : Bool
  alert : Bool
  wrErr : Bool
deriving DecidableEq, Repr

/-- One ALLOW_CTL register (R52). -/
structure AllowCtl where
  valid : Bool
  len : BitVec 9
deriving DecidableEq, Repr

/-- The P_* group, the Parsed Packet registers (R60 to R69). -/
structure ParsedRegs where
  valid : Bool
  apid : BitVec 11
  seq : BitVec 14
  tsLo : Word
  tsHi : Word
  idOff : BitVec 17
  idLen : BitVec 16
  cmdOff : BitVec 17
  cmdLen : BitVec 16
  rawLen : BitVec 17
  sigOff : BitVec 17
deriving DecidableEq, Repr

/-! ### The outside agents' inputs (R8) -/

/-- How many bits a bus transfer moves. Only 32-bit transfers are legal (R103, R105). -/
inductive Width where
  | byte | half | word
deriving DecidableEq, Repr

/-- One bus transfer the HOST makes (R103), the malformed ones of R105 among them. `off` is the byte offset from BASE. -/
inductive Transfer where
  | read (off : Nat) (width : Width)
  | write (off : Nat) (width : Width) (strobes : BitVec 4) (data : Word)
deriving DecidableEq, Repr

/-- How a bus transfer completed: OK or ERROR (pslverr), and for a read the word (R103, R105). -/
inductive Response where
  | readDone (error : Bool) (data : Word)
  | writeDone (error : Bool)
deriving DecidableEq, Repr

/-- One turn of one agent (R8). -/
inductive Event where
  /-- HOST: one bus transfer. -/
  | host (x : Transfer)
  /-- ENGINE: the completion step, enabled while STATUS.BUSY = 1 (R118). -/
  | engine
  /-- TICK: one pulse of the tick input (R340). -/
  | tick
  /-- RESET: the deassertion of rst_n (R360). -/
  | reset
deriving DecidableEq, Repr

/-- The bytes of the aperture that are storage: the key stores, the allow-list stores and the four buffers, as
(offset, byte) pairs in one canonical form (`Memory.wf`, log 18). A buffer byte is listed exactly when it has been
written since reset: the listing is the mark of R82. -/
abbrev Memory := List Host.Cell

/-- Everything the spec gives the PCFE (10_state.md), and after it the model's own three fields. -/
structure State where
  /-- CTRL, R34. -/
  ctrl : Ctrl
  /-- STATUS, R36. -/
  status : Status
  /-- IRQ_STATUS, R37. -/
  irqStatus : Irq
  /-- IRQ_ENABLE, R38. -/
  irqEnable : Irq
  /-- APID, R39. -/
  apid : BitVec 11
  /-- SEQ, R40. -/
  seq : BitVec 14
  /-- TIME, the seconds counter behind TIME_LO and TIME_HI, R81. -/
  time : BitVec 64
  /-- TIME_WLO, the staging register of a TIME write, R81. -/
  timeWlo : Word
  /-- TIME_RHI, the shadow of a TIME read, R81. -/
  timeRhi : Word
  /-- SRC_TAG, R42. -/
  srcTag : Word
  /-- RES_SRC, R43. -/
  resSrc : Word
  /-- GSID_LEN, R44. -/
  gsidLen : BitVec 16
  /-- CMDSTR_LEN, R45. -/
  cmdstrLen : BitVec 16
  /-- OUT_LEN, R46. -/
  outLen : BitVec 17
  /-- IN_LEN, R47. -/
  inLen : Word
  /-- TAG_LEN, R48. -/
  tagLen : BitVec 8
  /-- KEY_S_LEN, R49. -/
  keySLen : BitVec 9
  /-- KEY_V_LEN, R50. -/
  keyVLen : BitVec 9
  /-- The P_* group, R60. -/
  parsed : ParsedRegs
  /-- TAG0 to TAG7, R51. -/
  tag : Vector Word 8
  /-- ALLOW_CTL0 to ALLOW_CTL15, R52. -/
  allowCtl : Vector AllowCtl 16
  /-- OPL, the operation latch, R80. -/
  opl : BitVec 8
  /-- TS_LATCH, the timestamp BUILD sampled at issue, R80. -/
  tsLatch : BitVec 64
  /-- KEY_S, KEY_V (R70, R71), ALLOW_DATA (R73) and the four buffers with their written marks (R82, R101). -/
  mem : Memory
  /-- The model's own: the agents' turns still to come, first first (DESIGN CHOICE, log 1). -/
  script : List Event
  /-- The model's own: how the last bus transfer that reached the PCFE completed (DESIGN CHOICE, log 11). -/
  resp : Option Response
  /-- The model's own: how many free bytes host reads have drawn (DESIGN CHOICE, log 6). -/
  draws : Nat
deriving DecidableEq, Repr

/-- Why a step has no next state. -/
inductive Fault where
  /-- UNWRITTEN_INPUT: raised by the ENGINE step of any operation that reads a buffer byte nothing wrote since reset
  (R113). Safe: the hardware goes on with an unspecified value and the model claims nothing of the run (log 5). -/
  | unwrittenInput
  /-- Raised by the ENGINE step when BUSY = 1 and OPL holds no legal opcode. No run reaches it: only the issue of a
  legal opcode sets BUSY (R140). Safe: the model is stuck where the spec gives no meaning (log 10). -/
  | noOperation
deriving DecidableEq, Repr

/-- Why an instruction has no meaning in the model. -/
inductive Refusal where
  /-- Raised by an arm of `exec` whose instruction has no meaning yet (none at present). Safe. -/
  | notModelled (mnemonic : String)
deriving DecidableEq, Repr

/-! ### Reset (R85, R360) -/

/-- CTRL at reset, 0x00000006: both checks on, LOCK and TIME_RUN off (R34, R85). -/
def Ctrl.reset : Ctrl := { lock := false, utf8Check := true, trailCheck := true, timeRun := false }

/-- STATUS with every field 0: its value at reset (R85). -/
def Status.zero : Status :=
  { busy := false, done := false, ok := false, accept := false, result := 0, cls := 0, event := 0, severity := 0 }

/-- No interrupt bit set: IRQ_STATUS and IRQ_ENABLE at reset (R85). -/
def Irq.zero : Irq := { done := false, cmdErr := false, alert := false, wrErr := false }

/-- Every P_* register 0: the group at reset (R85) and after a parse that failed (R265). -/
def ParsedRegs.zero : ParsedRegs :=
  { valid := false, apid := 0, seq := 0, tsLo := 0, tsHi := 0, idOff := 0, idLen := 0, cmdOff := 0, cmdLen := 0,
    rawLen := 0, sigOff := 0 }

/-- The reset state (R85). No memory cell is listed: the key and allow-list stores read 0 and every buffer byte is
unwritten. No agent's turn is listed, no transfer has completed and nothing has been drawn (logs 1, 6, 11). -/
def State.reset : State :=
  { ctrl := Ctrl.reset
    status := Status.zero
    irqStatus := Irq.zero
    irqEnable := Irq.zero
    apid := 0
    seq := 0
    time := 0
    timeWlo := 0
    timeRhi := 0
    srcTag := 0
    resSrc := 0
    gsidLen := 0
    cmdstrLen := 0
    outLen := 0
    inLen := 0
    tagLen := 0
    keySLen := 0
    keyVLen := 0
    parsed := ParsedRegs.zero
    tag := Vector.replicate 8 0
    allowCtl := Vector.replicate 16 { valid := false, len := 0 }
    opl := 0
    tsLatch := 0
    mem := []
    script := []
    resp := none
    draws := 0 }

end Machine
end Sys2Proof
end

