-- ==== Sys2Proof/Machine/Flags.lean ====
section
/-! DEFINITION. The flags: result codes and their classes, event kinds and their severities, what a completion does to
STATUS and IRQ_STATUS, the words a host reads of the flag registers, and the irq line. -/

namespace Sys2Proof
namespace Machine

/-- The 8-bit code of a result (R170). -/
def ResultCode.bits : ResultCode → BitVec 8
  | .ok => 0x00
  | .tooShort => 0x01
  | .badHeader => 0x02
  | .fragmented => 0x03
  | .lengthMismatch => 0x04
  | .secHdrTruncated => 0x05
  | .idIncomplete => 0x06
  | .idNotUtf8 => 0x07
  | .cmdLenMissing => 0x08
  | .cmdTruncated => 0x09
  | .cmdNotUtf8 => 0x0A
  | .trailingBytes => 0x0B
  | .notAuthorized => 0x10
  | .authFailed => 0x11
  | .pktTooLong => 0x20
  | .buildIdNotUtf8 => 0x21
  | .buildCmdNotUtf8 => 0x22
  | .illegalOp => 0x30
  | .notLocked => 0x31
  | .badLength => 0x32

/-- `ClassOf`, the class of each result code (R170, R321). -/
def classOf : ResultCode → BitVec 3
  | .ok => 0
  | .tooShort => 1
  | .badHeader => 1
  | .fragmented => 1
  | .lengthMismatch => 1
  | .secHdrTruncated => 1
  | .idIncomplete => 1
  | .idNotUtf8 => 1
  | .cmdLenMissing => 1
  | .cmdTruncated => 1
  | .cmdNotUtf8 => 1
  | .trailingBytes => 1
  | .notAuthorized => 2
  | .authFailed => 3
  | .pktTooLong => 4
  | .buildIdNotUtf8 => 4
  | .buildCmdNotUtf8 => 4
  | .illegalOp => 5
  | .notLocked => 5
  | .badLength => 5

/-- The 3-bit code of an event kind (R172). -/
def EventKind.bits : EventKind → BitVec 3
  | .none => 0
  | .decodeFailure => 1
  | .unauthorizedGs => 2
  | .authFailed => 3
  | .accepted => 4

/-- `SeverityOf`, the severity of each event kind (R172, R322). -/
def severityOf : EventKind → BitVec 2
  | .none => 0
  | .decodeFailure => 2
  | .unauthorizedGs => 3
  | .authFailed => 3
  | .accepted => 1

/-- STATUS after the issue of a legal opcode: BUSY alone (R140). -/
def Status.issued : Status := { Status.zero with busy := true }

/-- STATUS after a completion with `code` and `ev` (R322). -/
def Status.completed (code : ResultCode) (ev : EventKind) : Status :=
  { busy := false
    done := true
    ok := decide (code = .ok)
    accept := decide (code = .ok) && decide (ev = .accepted)
    result := code.bits
    cls := classOf code
    event := ev.bits
    severity := severityOf ev }

/-- IRQ_STATUS after a completion with `code` and `ev`: bits are set, none is cleared (R322). -/
def Irq.afterCompletion (q : Irq) (code : ResultCode) (ev : EventKind) : Irq :=
  { q with
    done := true
    cmdErr := q.cmdErr || decide (classOf code = 5)
    alert := q.alert || decide (severityOf ev = 3) }

/-- IRQ_STATUS after a dropped write (R327). -/
def Irq.afterDrop (q : Irq) : Irq := { q with wrErr := true }

/-- IRQ_STATUS after a host write of `w`: a bit written 1 is cleared, a bit written 0 stays (R37). -/
def Irq.acknowledged (q : Irq) (w : Word) : Irq :=
  { done := q.done && !w.getLsbD 0
    cmdErr := q.cmdErr && !w.getLsbD 1
    alert := q.alert && !w.getLsbD 2
    wrErr := q.wrErr && !w.getLsbD 3 }

/-- The four enable bits a word holds (R38). -/
def Irq.ofWord (w : Word) : Irq :=
  { done := w.getLsbD 0, cmdErr := w.getLsbD 1, alert := w.getLsbD 2, wrErr := w.getLsbD 3 }

/-- The word of IRQ_STATUS or IRQ_ENABLE (R37, R38). -/
def Irq.word (q : Irq) : Word :=
  (0#28 ++ BitVec.ofBool q.wrErr ++ BitVec.ofBool q.alert ++ BitVec.ofBool q.cmdErr ++ BitVec.ofBool q.done : BitVec 32)

/-- The word of STATUS (R36). -/
def Status.word (x : Status) : Word :=
  (0#6 ++ x.severity ++ 0#1 ++ x.event ++ 0#1 ++ x.cls ++ x.result ++ 0#4 ++ BitVec.ofBool x.accept
    ++ BitVec.ofBool x.ok ++ BitVec.ofBool x.done ++ BitVec.ofBool x.busy : BitVec 32)

/-- The word of CTRL (R34). -/
def Ctrl.word (c : Ctrl) : Word :=
  (0#28 ++ BitVec.ofBool c.timeRun ++ BitVec.ofBool c.trailCheck ++ BitVec.ofBool c.utf8Check
    ++ BitVec.ofBool c.lock : BitVec 32)

/-- CTRL after an accepted write of `w` (R34): LOCK is write-1-to-set, and once it is 1 only TIME_RUN is taken. -/
def Ctrl.written (c : Ctrl) (w : Word) : Ctrl :=
  if c.lock then { c with timeRun := w.getLsbD 3 }
  else { lock := w.getLsbD 0, utf8Check := w.getLsbD 1, trailCheck := w.getLsbD 2, timeRun := w.getLsbD 3 }

/-- The word of an ALLOW_CTL register (R52). -/
def AllowCtl.word (a : AllowCtl) : Word := (BitVec.ofBool a.valid ++ 0#22 ++ a.len : BitVec 32)

/-- The irq output, a level and a function of the current state alone (R328). -/
def irqLine (s : State) : Bool :=
  (s.irqStatus.done && s.irqEnable.done) || (s.irqStatus.cmdErr && s.irqEnable.cmdErr)
    || (s.irqStatus.alert && s.irqEnable.alert) || (s.irqStatus.wrErr && s.irqEnable.wrErr)

end Machine
end Sys2Proof
end

