-- ==== Sys2Proof/Machine/Ops.lean ====
section
/-! DEFINITION. The shared operations: reading and writing bytes of memory, `MemRead` and `MemWrite` on the buffers,
the writes of the Parsed Packet and TAG registers, and `finish`, the completion that is this hardware's exception
entry (R320, R322), with the acknowledge beside it (R329). -/

namespace Sys2Proof
namespace Machine

/-! ### Memory, one byte at a time -/

/-- Where a buffer's window starts (R101). -/
def BufId.base : BufId → Nat
  | .gsid => 0x10000
  | .cmdstr => 0x20000
  | .out => 0x40000
  | .inb => 0x60000

/-- A buffer's capacity in bytes (R101). -/
def BufId.cap : BufId → Nat
  | .gsid => Config.gsidCap
  | .cmdstr => Config.cmdstrCap
  | .out => Config.outCap
  | .inb => Config.inCap

/-- Offset of byte 0 of KEY_S (R70). -/
def keySBase : Nat := 0x400

/-- Offset of byte 0 of KEY_V (R71). -/
def keyVBase : Nat := 0x500

/-- Offset of byte 0 of ALLOW_DATA entry i (R73). -/
def allowBase (i : Nat) : Nat := 0x1000 + 0x100 * i

/-- `a` is a byte of KEY_S, KEY_V or ALLOW_DATA. -/
def isStore (a : Nat) : Bool :=
  (decide (0x400 ≤ a) && decide (a < 0x600)) || (decide (0x1000 ≤ a) && decide (a < 0x2000))

/-- `a` is a byte of the buffer `b`, its tail (R107) left out. -/
def BufId.has (b : BufId) (a : Nat) : Bool := decide (b.base ≤ a) && decide (a < b.base + b.cap)

/-- `a` is a byte of one of the four buffers. -/
def isBuffer (a : Nat) : Bool :=
  BufId.gsid.has a || BufId.cmdstr.has a || BufId.out.has a || BufId.inb.has a

/-- What an address that memory does not list reads as: the stores are zeroed by reset (R85), a buffer byte has no
value until something writes it (R82), and there is no other storage. -/
def unlisted (a : Nat) : Option Byte := if isStore a then some 0 else none

/-- The canonical form (log 18): addresses strictly rising, each a byte that exists, none listed with what an
unlisted address reads as. -/
abbrev Memory.wf (m : Memory) : Prop :=
  m.Pairwise (fun x y => x.1 < y.1) ∧
    ∀ c ∈ m, (isStore c.1 || isBuffer c.1) = true ∧ unlisted c.1 ≠ some c.2

/-- The byte listed at `a`. -/
def Memory.lookup : Memory → Nat → Option Byte
  | [], _ => none
  | c :: m, a => if c.1 = a then some c.2 else Memory.lookup m a

/-- The byte at `a`; `none` for a buffer byte not written since reset. -/
def Memory.read (m : Memory) (a : Nat) : Option Byte :=
  match Memory.lookup m a with
  | some b => some b
  | none => unlisted a

/-- List the byte `b` at `a`, in its place. -/
def Memory.insert : Memory → Nat → Byte → Memory
  | [], a, b => [(a, b)]
  | c :: m, a, b =>
    if a < c.1 then (a, b) :: c :: m
    else if a = c.1 then (a, b) :: m
    else c :: Memory.insert m a b

/-- Unlist the address `a`. -/
def Memory.erase : Memory → Nat → Memory
  | [], _ => []
  | c :: m, a => if c.1 = a then m else c :: Memory.erase m a

/-- Store the byte `b` at `a`, keeping the canonical form. -/
def Memory.write (m : Memory) (a : Nat) (b : Byte) : Memory :=
  if unlisted a = some b then Memory.erase m a else Memory.insert m a b

/-! ### Byte strings in memory -/

/-- The `n` bytes from `a` on, when every one of them has a value. -/
def Memory.bytes (m : Memory) : Nat → Nat → Option (List Byte)
  | _, 0 => some []
  | a, n + 1 =>
    match Memory.read m a, Memory.bytes m (a + 1) n with
    | some b, some s => some (b :: s)
    | _, _ => none

/-- Store a byte string from `a` on. -/
def Memory.writeBytes (m : Memory) : Nat → List Byte → Memory
  | _, [] => m
  | a, b :: s => Memory.writeBytes (Memory.write m a b) (a + 1) s

/-- `MemRead(B, off, n)` of a buffer (R12, R111); `none` when one of the bytes was never written (R113). -/
def bufRead (m : Memory) (b : BufId) (off n : Nat) : Option (List Byte) := Memory.bytes m (b.base + off) n

/-- `MemWrite(B, off, s)` of a buffer (R12, R111). -/
def bufWrite (m : Memory) (b : BufId) (off : Nat) (s : List Byte) : Memory := Memory.writeBytes m (b.base + off) s

/-- `MemRead` of a store: every store byte has a value (R85), so this is total. -/
def storeRead (m : Memory) (a n : Nat) : List Byte :=
  (List.range n).map (fun k => (Memory.read m (a + k)).getD 0)

/-! ### Completion: the exception entry of this hardware -/

/-- `finish(code, ev)` (R13, R322): every operation ends here, whether it failed or not. STATUS is written whole,
BUSY falls, and IRQ_STATUS bits are set. Nothing else changes. -/
def finish (s : State) (code : ResultCode) (ev : EventKind) : State :=
  { s with
    status := Status.completed code ev
    irqStatus := s.irqStatus.afterCompletion code ev }

/-- The return beside it: the host acknowledges by writing `w` to IRQ_STATUS (R329). STATUS keeps the result. -/
def acknowledge (s : State) (w : Word) : State := { s with irqStatus := s.irqStatus.acknowledged w }

/-- A write that is dropped: WR_ERR is its only effect (R110, R327). -/
def dropWrite (s : State) : State := { s with irqStatus := s.irqStatus.afterDrop }

/-! ### Output registers the operations write -/

/-- The fields a successful parse yields (R251). -/
structure ParsedFields where
  apid : BitVec 11
  seq : BitVec 14
  ts : BitVec 64
  idLen : BitVec 16
  cmdLen : BitVec 16
  rawLen : Nat
deriving DecidableEq, Repr

/-- The P_* group a successful parse leaves (R264). -/
def parsedOf (r : ParsedFields) : ParsedRegs :=
  { valid := true
    apid := r.apid
    seq := r.seq
    tsLo := r.ts.extractLsb' 0 32
    tsHi := r.ts.extractLsb' 32 32
    idOff := 16
    idLen := r.idLen
    cmdOff := BitVec.ofNat 17 (18 + r.idLen.toNat)
    cmdLen := r.cmdLen
    rawLen := BitVec.ofNat 17 r.rawLen
    sigOff := BitVec.ofNat 17 r.rawLen }

/-- `WriteParsed(r)`, R264. -/
def writeParsed (s : State) (r : ParsedFields) : State := { s with parsed := parsedOf r }

/-- `ClearParsed()`, R265. -/
def clearParsed (s : State) : State := { s with parsed := ParsedRegs.zero }

/-- TAG0 to TAG7 holding the 32-byte string `t`, byte j in lane j mod 4 of TAG(j div 4) (R51). -/
def tagBank (t : Vector Byte 32) : Vector Word 8 :=
  Vector.ofFn fun i : Fin 8 =>
    laneWord (t[4 * i.val]'(by omega)) (t[4 * i.val + 1]'(by omega)) (t[4 * i.val + 2]'(by omega))
      (t[4 * i.val + 3]'(by omega))

/-- The TAG bank and TAG_LEN after a successful MAC_SIGN (R203). -/
def writeTag (s : State) (t : Vector Byte 32) : State := { s with tag := tagBank t, tagLen := 32 }

/-- OUT_BUF and OUT_LEN holding the packet `p`, and SEQ advanced, as a successful BUILD leaves them (R220, R228). -/
def writePacket (s : State) (p : List Byte) : State :=
  { s with
    mem := bufWrite s.mem .out 0 p
    outLen := BitVec.ofNat 17 p.length
    seq := BitVec.ofNat 14 ((s.seq.toNat + 1) % Config.seqMod) }

/-- OUT_LEN <- 0, what a BUILD that failed with class 4 writes (R229). -/
def clearOutLen (s : State) : State := { s with outLen := 0 }

/-- RES_SRC <- SRC_TAG (R298). -/
def copySource (s : State) : State := { s with resSrc := s.srcTag }

end Machine
end Sys2Proof
end

