-- ==== Sys2Proof/Machine/Control.lean ====
section
/-! DEFINITION. The sequencer and the small agents: the issue of an operation word (R140), what the ENGINE fetches from
OPL (R80), and the TICK and RESET steps. -/

namespace Sys2Proof
namespace Machine

/-- The issue of word `w` while idle (R140): a legal word starts its operation, BUILD's samples TIME, and an illegal
word completes at once with ILLEGAL_OP (R323). -/
def issue (s : State) (w : Word) : State :=
  match decode w with
  | .ok i =>
    { s with
      status := Status.issued
      opl := opcodeOf w
      tsLatch := if i = .build then s.time else s.tsLatch }
  | .error _ => finish s .illegalOp .none

/-- The operation the ENGINE is to complete: the one whose opcode OPL holds (R32, R80, R118). -/
def fetch (s : State) : Option Instr :=
  match decode (s.opl.setWidth 32) with
  | .ok i => some i
  | .error _ => none

/-- The TICK step (R340). TIME wraps (R343). -/
def tickStep (s : State) : State := if s.ctrl.timeRun then { s with time := s.time + 1 } else s

/-- The RESET step (R360). The turns still to come are the outside world's and stay; the draws counter stays too, so
that bytes drawn after a reset are fresh ones (logs 1 and 6). -/
def resetStep (s : State) : State := { State.reset with script := s.script, draws := s.draws }

/-- The state in which the operation word `w` has just been issued and the ENGINE's turn is next; for a word that is
no operation, the state in which the host's write of it to OP is next (log 2). -/
def placeWord (s : State) (w : Word) : State :=
  let idle := { s with status := { s.status with busy := false } }
  match decode w with
  | .ok _ => { issue idle w with script := .engine :: s.script }
  | .error _ => { idle with script := .host (.write 0x008 .word 0xF w) :: s.script }

end Machine
end Sys2Proof
end

