-- ==== Sys2Proof/Machine/Bus.lean ====
section
/-! DEFINITION. The HOST agent: the register map (R33), one bus read, one bus write, and the transfer that wraps them
with the errors of R105. -/

namespace Sys2Proof
namespace Machine

/-- What an offset of the aperture names (R33). -/
inductive Target where
  | id | ctrl | op | status | irqStatus | irqEnable | apid | seq | timeLo | timeHi | srcTag | resSrc
  | gsidLen | cmdstrLen | outLen | inLen | tagLen | keySLen | keyVLen
  | pValid | pApid | pSeq | pTsLo | pTsHi | pIdOff | pIdLen | pCmdOff | pCmdLen | pRawLen | pSigOff
  | tag (i : Fin 8)
  | allowCtl (i : Fin 16)
  | keyS | keyV | allowData
  | buf (b : BufId)
  | reserved
deriving DecidableEq, Repr

/-- ID, a constant (R33). -/
def idWord : Word := 0x50434601

/-- The registers with an offset of their own (R33), first half. -/
def registerMapLow : List (Nat × Target) :=
  [ (0x000, .id), (0x004, .ctrl), (0x008, .op), (0x00C, .status), (0x010, .irqStatus), (0x014, .irqEnable),
    (0x018, .apid), (0x01C, .seq), (0x020, .timeLo), (0x024, .timeHi), (0x028, .srcTag), (0x02C, .resSrc),
    (0x030, .gsidLen), (0x034, .cmdstrLen), (0x038, .outLen), (0x03C, .inLen), (0x040, .tagLen),
    (0x044, .keySLen), (0x048, .keyVLen) ]

/-- The registers with an offset of their own (R33), the P_* group. -/
def registerMapParsed : List (Nat × Target) :=
  [ (0x050, .pValid), (0x054, .pApid), (0x058, .pSeq), (0x05C, .pTsLo), (0x060, .pTsHi), (0x064, .pIdOff),
    (0x068, .pIdLen), (0x06C, .pCmdOff), (0x070, .pCmdLen), (0x074, .pRawLen), (0x078, .pSigOff) ]

/-- The registers with an offset of their own (R33). -/
def registerMap : List (Nat × Target) := registerMapLow ++ registerMapParsed

/-- The banks and windows (R33, R101), an aligned offset in none of them being reserved (R53, R106, R107). -/
def windowAt (off : Nat) : Target :=
  if h : 0x080 ≤ off ∧ off < 0x0A0 then .tag ⟨(off - 0x080) / 4, by omega⟩
  else if h : 0x100 ≤ off ∧ off < 0x140 then .allowCtl ⟨(off - 0x100) / 4, by omega⟩
  else if 0x400 ≤ off ∧ off < 0x500 then .keyS
  else if 0x500 ≤ off ∧ off < 0x600 then .keyV
  else if 0x1000 ≤ off ∧ off < 0x2000 then .allowData
  else if BufId.gsid.has off then .buf .gsid
  else if BufId.cmdstr.has off then .buf .cmdstr
  else if BufId.out.has off then .buf .out
  else if BufId.inb.has off then .buf .inb
  else .reserved

/-- What the aligned offset `off` names. -/
def targetAt (off : Nat) : Target :=
  match registerMap.find? (fun r => r.1 == off) with
  | some r => r.2
  | none => windowAt off

/-! ### Reads -/

/-- Lane i of a read of the word at `a`: the byte, or a drawn value where nothing has written it (R104, R112). -/
def readLane (s : State) (a i : Nat) : Byte :=
  match Memory.read s.mem (a + i) with
  | some b => b
  | none => Config.freeByte (s.draws + i)

/-- The word a byte window reads at `a` (R104). -/
def readWindow (s : State) (a : Nat) : Word :=
  laneWord (readLane s a 0) (readLane s a 1) (readLane s a 2) (readLane s a 3)

/-- How many draws a read of `off` takes: four when a buffer word holds an unwritten byte, else none (log 6). -/
def drawsAt (s : State) (off : Nat) : Nat :=
  match targetAt off with
  | .buf _ => if (Memory.bytes s.mem off 4).isSome then 0 else 4
  | _ => 0

/-- The word a read of the target `t` at `off` returns. Write-only targets and reserved space read 0 (R35, R53, R72). -/
def readValue (s : State) (off : Nat) (t : Target) : Word :=
  match t with
  | .id => idWord
  | .ctrl => s.ctrl.word
  | .op => 0
  | .status => s.status.word
  | .irqStatus => s.irqStatus.word
  | .irqEnable => s.irqEnable.word
  | .apid => s.apid.setWidth 32
  | .seq => s.seq.setWidth 32
  | .timeLo => s.time.extractLsb' 0 32
  | .timeHi => s.timeRhi
  | .srcTag => s.srcTag
  | .resSrc => s.resSrc
  | .gsidLen => s.gsidLen.setWidth 32
  | .cmdstrLen => s.cmdstrLen.setWidth 32
  | .outLen => s.outLen.setWidth 32
  | .inLen => s.inLen
  | .tagLen => s.tagLen.setWidth 32
  | .keySLen => s.keySLen.setWidth 32
  | .keyVLen => s.keyVLen.setWidth 32
  | .pValid => (BitVec.ofBool s.parsed.valid).setWidth 32
  | .pApid => s.parsed.apid.setWidth 32
  | .pSeq => s.parsed.seq.setWidth 32
  | .pTsLo => s.parsed.tsLo
  | .pTsHi => s.parsed.tsHi
  | .pIdOff => s.parsed.idOff.setWidth 32
  | .pIdLen => s.parsed.idLen.setWidth 32
  | .pCmdOff => s.parsed.cmdOff.setWidth 32
  | .pCmdLen => s.parsed.cmdLen.setWidth 32
  | .pRawLen => s.parsed.rawLen.setWidth 32
  | .pSigOff => s.parsed.sigOff.setWidth 32
  | .tag i => s.tag[i]
  | .allowCtl i => s.allowCtl[i].word
  | .keyS => 0
  | .keyV => 0
  | .allowData => readWindow s off
  | .buf _ => readWindow s off
  | .reserved => 0

/-- `Read(off)` of an aligned offset (R103). Only a read of TIME_LO changes a register: it latches the high half of
TIME in TIME_RHI (R41, R109, R341). A read is never blocked (R116, R117). -/
def busRead (s : State) (off : Nat) : State :=
  { s with
    timeRhi := if targetAt off = .timeLo then s.time.extractLsb' 32 32 else s.timeRhi
    draws := s.draws + drawsAt s off
    resp := some (.readDone false (readValue s off (targetAt off))) }

/-! ### Writes -/

/-- A write to the lock-frozen set (R54): dropped while LOCK = 1. -/
def lockFrozen (s accepted : State) : State := if s.ctrl.lock then dropWrite s else accepted

/-- Store the word `w` in the byte window at `off`, lane by lane (R104). -/
def storeWord (s : State) (off : Nat) (w : Word) : State := { s with mem := Memory.writeBytes s.mem off (laneBytes w) }

/-- The 9-bit length a word holds is over KEY_MAX = ALLOW_MAX = 256 (R49, R50, R52). -/
def lengthIllegal (w : Word) : Bool := decide (256 < (w.extractLsb' 0 9).toNat)

/-- An accepted-or-dropped write to KEY_S_LEN, KEY_V_LEN or an ALLOW_CTL: an illegal length is dropped. -/
def lengthChecked (s : State) (w : Word) (accepted : State) : State :=
  if lengthIllegal w then dropWrite s else accepted

/-- A write of `w` to the target `t` at `off` while BUSY = 0. Read-only registers, OUT_BUF and reserved space ignore
it with no flag (R53, R108). -/
def writeIdle (s : State) (off : Nat) (w : Word) (t : Target) : State :=
  match t with
  | .id => s
  | .ctrl => { s with ctrl := s.ctrl.written w }
  | .op => issue s w
  | .status => s
  | .irqStatus => acknowledge s w
  | .irqEnable => { s with irqEnable := Irq.ofWord w }
  | .apid => lockFrozen s { s with apid := w.extractLsb' 0 11 }
  | .seq => s
  | .timeLo => { s with timeWlo := w }
  | .timeHi => { s with time := w ++ s.timeWlo }
  | .srcTag => { s with srcTag := w }
  | .resSrc => s
  | .gsidLen => { s with gsidLen := w.extractLsb' 0 16 }
  | .cmdstrLen => { s with cmdstrLen := w.extractLsb' 0 16 }
  | .outLen => s
  | .inLen => { s with inLen := w }
  | .tagLen => { s with tagLen := w.extractLsb' 0 8 }
  | .keySLen => lockFrozen s (lengthChecked s w { s with keySLen := w.extractLsb' 0 9 })
  | .keyVLen => lockFrozen s (lengthChecked s w { s with keyVLen := w.extractLsb' 0 9 })
  | .pValid => s
  | .pApid => s
  | .pSeq => s
  | .pTsLo => s
  | .pTsHi => s
  | .pIdOff => s
  | .pIdLen => s
  | .pCmdOff => s
  | .pCmdLen => s
  | .pRawLen => s
  | .pSigOff => s
  | .tag i => { s with tag := s.tag.set i w }
  | .allowCtl i =>
    lockFrozen s (lengthChecked s w
      { s with allowCtl := s.allowCtl.set i { valid := w.getLsbD 31, len := w.extractLsb' 0 9 } })
  | .keyS => lockFrozen s (storeWord s off w)
  | .keyV => lockFrozen s (storeWord s off w)
  | .allowData => lockFrozen s (storeWord s off w)
  | .buf .gsid => storeWord s off w
  | .buf .cmdstr => storeWord s off w
  | .buf .out => s
  | .buf .inb => storeWord s off w
  | .reserved => s

/-- The two registers whose writes the busy interlock lets through (R116). -/
def writableBusy (t : Target) : Bool := decide (t = .irqStatus) || decide (t = .irqEnable)

/-- The effect of `Write(off, w)` on an aligned offset (R103): the busy interlock first (R116), then the target. -/
def writeEffect (s : State) (off : Nat) (w : Word) : State :=
  if s.status.busy && !writableBusy (targetAt off) then dropWrite s else writeIdle s off w (targetAt off)

/-- `Write(off, w)`: it completes OK whether it is accepted, ignored or dropped (R103, R116). -/
def busWrite (s : State) (off : Nat) (w : Word) : State :=
  { writeEffect s off w with resp := some (.writeDone false) }

/-! ### Transfers -/

/-- The transfer is one the PCFE answers with ERROR (R105). -/
def Transfer.malformed : Transfer → Bool
  | .read off width => decide (off % 4 ≠ 0) || decide (width ≠ .word)
  | .write off width strobes _ => decide (off % 4 ≠ 0) || decide (width ≠ .word) || decide (strobes ≠ 0xF)

/-- The byte offset a transfer is made at. -/
def Transfer.off : Transfer → Nat
  | .read off _ => off
  | .write off _ _ _ => off

/-- The offset of a bus address that falls in the aperture (R100), `none` elsewhere (log 4). -/
def offsetOf (busAddress : Nat) : Option Nat :=
  if Config.base ≤ busAddress ∧ busAddress < Config.base + Config.apertureLen then some (busAddress - Config.base)
  else none

/-- The HOST step (R8, R103): one transfer. An offset past the aperture never reaches the PCFE (R106); a malformed
transfer completes with ERROR, read data 0 and no effect (R105). -/
def hostStep (s : State) (x : Transfer) : State :=
  if Config.apertureLen ≤ x.off then s
  else
    match x with
    | .read off _ => if x.malformed then { s with resp := some (.readDone true 0) } else busRead s off
    | .write off _ _ w => if x.malformed then { s with resp := some (.writeDone true) } else busWrite s off w

end Machine
end Sys2Proof
end

