-- ==== Sys2Proof/Machine/Operands.lean ====
section
/-! DEFINITION. The implicit operands of the operations (R145): the keys, the message, the provided tag, the two strings
BUILD takes, and the allow-list. -/

namespace Sys2Proof
namespace Machine

/-- KeyS, the signing key (R70, R200). -/
def keyS (s : State) : List Byte := storeRead s.mem keySBase s.keySLen.toNat

/-- KeyV, the verification key (R71, R200). -/
def keyV (s : State) : List Byte := storeRead s.mem keyVBase s.keyVLen.toNat

/-- N, the length in IN_LEN (R47). -/
def inCount (s : State) : Nat := s.inLen.toNat

/-- `MemRead(IN_BUF, 0, N)`, the message of the MAC operations (R203). -/
def message (s : State) : Option (List Byte) := bufRead s.mem .inb 0 (inCount s)

/-- The ground-station ID BUILD takes (R44, R220). -/
def buildId (s : State) : Option (List Byte) := bufRead s.mem .gsid 0 s.gsidLen.toNat

/-- The command string BUILD takes (R45, R220). -/
def buildCmd (s : State) : Option (List Byte) := bufRead s.mem .cmdstr 0 s.cmdstrLen.toNat

/-- Byte j of the TAG bank (R51). -/
def tagByte (s : State) (j : Fin 32) : Byte := lane (s.tag[j.val / 4]'(by omega)) (j.val % 4)

/-- The provided tag of MAC_VERIFY, TAG_LEN bytes long (R204). Past the bank "any string" will do: those bytes are
free values (log 9). -/
def providedTag (s : State) : List Byte :=
  (List.range s.tagLen.toNat).map fun j =>
    if h : j < 32 then tagByte s ⟨j, h⟩ else Config.freeTagByte j

/-- `AllowID(i)`, the identifier of allow-list entry i (R73). -/
def allowId (s : State) (i : Fin 16) : List Byte := storeRead s.mem (allowBase i.val) s.allowCtl[i].len.toNat

/-- Entry i admits g: valid, of g's length and byte for byte equal (R74). -/
def allowEntry (s : State) (g : List Byte) (i : Fin 16) : Bool :=
  s.allowCtl[i].valid && decide (s.allowCtl[i].len.toNat = g.length) && decide (allowId s i = g)

/-- `InAllowList(g)` (R74). -/
def inAllowList (s : State) (g : List Byte) : Bool := (List.finRange 16).any (allowEntry s g)

end Machine
end Sys2Proof
end

