-- ==== Sys2Proof/Machine/Mac.lean ====
section
/-! DEFINITION. The keyed MAC family (40_mac.md): constant-time equality, verification, MAC_SIGN and MAC_VERIFY. -/

namespace Sys2Proof
namespace Machine

/-- The loop of `CTEq` (R201): the accumulated difference, and how many byte pairs were examined. -/
def ctLoop : List Byte → List Byte → Byte → Nat → Byte × Nat
  | x :: a, y :: b, acc, n => ctLoop a b (acc ||| (x ^^^ y)) (n + 1)
  | _, _, acc, n => (acc, n)

/-- `CTEq(a, b)` (R201). -/
def ctEq (a b : List Byte) : Bool :=
  if a.length ≠ b.length then false else decide ((ctLoop a b 0 0).1 = 0)

/-- How many byte pairs `CTEq(a, b)` examines (R201). -/
def ctPairs (a b : List Byte) : Nat := if a.length ≠ b.length then 0 else (ctLoop a b 0 0).2

/-- The time of `CTEq(a, b)`: a free function of the two lengths (R376, I21, log 13). -/
def ctTime (a b : List Byte) : Nat := Config.ctEqCost a.length b.length

/-- `MacFn` as a byte string of length DIGEST_LEN (R7). -/
def macTag (k m : List Byte) : List Byte := (Config.macFn k m).toList

/-- `Verify(m, t, k)` (R202): the expected tag first, then the comparison. -/
def verify (m t k : List Byte) : Bool := ctEq (macTag k m) t

/-- MAC_SIGN, R203. -/
def execMacSign (s : State) : Host.Outcome State Fault Refusal :=
  if s.ctrl.lock = false then .next (finish s .notLocked .none)
  else if Config.inCap < inCount s then .next (finish s .badLength .none)
  else
    match message s with
    | none => .fault .unwrittenInput
    | some m => .next (finish (writeTag s (Config.macFn (keyS s) m)) .ok .none)

/-- MAC_VERIFY, R204. The expected tag goes nowhere but into the comparison (R205). -/
def execMacVerify (s : State) : Host.Outcome State Fault Refusal :=
  if s.ctrl.lock = false then .next (finish s .notLocked .none)
  else if Config.inCap < inCount s then .next (finish s .badLength .none)
  else
    match message s with
    | none => .fault .unwrittenInput
    | some m =>
      if verify m (providedTag s) (keyV s) then .next (finish s .ok .none)
      else .next (finish s .authFailed .none)

end Machine
end Sys2Proof
end

