-- ==== Sys2Proof/Machine/Utf8.lean ====
section
/-! DEFINITION. Well-formed UTF-8 (R262), as the table of that rule and a scanner that walks it. -/

namespace Sys2Proof
namespace Machine

/-- An inclusive range of byte values. -/
structure ByteRange where
  lo : Byte
  hi : Byte
deriving DecidableEq, Repr

/-- The byte lies in the range. -/
def ByteRange.has (r : ByteRange) (b : Byte) : Bool := decide (r.lo.toNat ≤ b.toNat) && decide (b.toNat ≤ r.hi.toNat)

/-- One row of R262's table: the range of byte 1 and the ranges of the bytes after it. -/
structure Utf8Row where
  first : ByteRange
  rest : List ByteRange
deriving DecidableEq, Repr

/-- The plain continuation byte, 80 to BF. -/
def utf8Tail : ByteRange := ⟨0x80, 0xBF⟩

/-- The nine rows of R262. -/
def utf8Rows : List Utf8Row :=
  [ ⟨⟨0x00, 0x7F⟩, []⟩,
    ⟨⟨0xC2, 0xDF⟩, [utf8Tail]⟩,
    ⟨⟨0xE0, 0xE0⟩, [⟨0xA0, 0xBF⟩, utf8Tail]⟩,
    ⟨⟨0xE1, 0xEC⟩, [utf8Tail, utf8Tail]⟩,
    ⟨⟨0xED, 0xED⟩, [⟨0x80, 0x9F⟩, utf8Tail]⟩,
    ⟨⟨0xEE, 0xEF⟩, [utf8Tail, utf8Tail]⟩,
    ⟨⟨0xF0, 0xF0⟩, [⟨0x90, 0xBF⟩, utf8Tail, utf8Tail]⟩,
    ⟨⟨0xF1, 0xF3⟩, [utf8Tail, utf8Tail, utf8Tail]⟩,
    ⟨⟨0xF4, 0xF4⟩, [⟨0x80, 0x8F⟩, utf8Tail, utf8Tail]⟩ ]

/-- What must follow a lead byte; `none` for a byte no sequence begins with. -/
def utf8After (b : Byte) : Option (List ByteRange) := (utf8Rows.find? (fun r => r.first.has b)).map Utf8Row.rest

/-- Scan a string, `pending` being the ranges the sequence under way still needs. -/
def utf8Scan : List ByteRange → List Byte → Bool
  | pending, [] => pending.isEmpty
  | [], b :: s =>
    match utf8After b with
    | some rest => utf8Scan rest s
    | none => false
  | r :: pending, b :: s => r.has b && utf8Scan pending s

/-- `WellFormedUTF8(s)` (R262). -/
def wellFormedUtf8 (s : List Byte) : Bool := utf8Scan [] s

end Machine
end Sys2Proof
end

