-- ==== Sys2Proof/Machine/Build.lean ====
section
/-! DEFINITION. The packet builder (41_build.md): the wire format of a packet and the operation BUILD. -/

namespace Sys2Proof
namespace Machine

/-- `Header(apid, seq, pl)` (R157): version 0, type 1, secondary-header flag 1, sequence flags 3. -/
def header (apid : BitVec 11) (seq : BitVec 14) (pl : Nat) : List Byte :=
  enc16 (0 * 2 ^ 13 + 1 * 2 ^ 12 + 1 * 2 ^ 11 + apid.toNat) ++ enc16 (3 * 2 ^ 14 + seq.toNat) ++ enc16 pl

/-- The secondary header (R154, R226). -/
def secondaryHeader (ts : BitVec 64) (g : List Byte) : List Byte := enc64 ts.toNat ++ enc16 g.length ++ g

/-- The payload (R155, R226). -/
def payload (c : List Byte) : List Byte := enc16 c.length ++ c

/-- packet_length (R153, R224): the bytes after the primary header, the trailer counted, minus 1. -/
def packetLength (ts : BitVec 64) (g c : List Byte) : Nat :=
  (secondaryHeader ts g ++ payload c).length + Config.digestLen - 1

/-- The unsigned packet: primary header, secondary header, payload, with no padding (R225 to R227, R234). -/
def unsignedPacket (apid : BitVec 11) (seq : BitVec 14) (ts : BitVec 64) (g c : List Byte) : List Byte :=
  header apid seq (packetLength ts g c) ++ secondaryHeader ts g ++ payload c

/-- The signed packet under the key k (R156, R227). -/
def signedPacket (k : List Byte) (apid : BitVec 11) (seq : BitVec 14) (ts : BitVec 64) (g c : List Byte) :
    List Byte :=
  unsignedPacket apid seq ts g c ++ macTag k (unsignedPacket apid seq ts g c)

/-- BUILD, R220. -/
def execBuild (s : State) : Host.Outcome State Fault Refusal :=
  if s.ctrl.lock = false then .next (finish s .notLocked .none)
  else if Config.bodyMax < s.gsidLen.toNat + s.cmdstrLen.toNat then
    .next (finish (clearOutLen s) .pktTooLong .none)
  else
    match buildId s, buildCmd s with
    | some g, some c =>
      if s.ctrl.utf8Check && !wellFormedUtf8 g then .next (finish (clearOutLen s) .buildIdNotUtf8 .none)
      else if s.ctrl.utf8Check && !wellFormedUtf8 c then .next (finish (clearOutLen s) .buildCmdNotUtf8 .none)
      else .next (finish (writePacket s (signedPacket (keyS s) s.apid s.seq s.tsLatch g c)) .ok .none)
    | _, _ => .fault .unwrittenInput

end Machine
end Sys2Proof
end

