-- ==== Sys2Proof/Machine/Parse.lean ====
section
/-! DEFINITION. The packet parser (42_parse.md): ParseCore, the fail-fast validation sequence, and the operation
PARSE. -/

namespace Sys2Proof
namespace Machine

/-- How ParseCore ends: a byte it reads was never written (R113), a structural code, or the fields (R251). -/
inductive ParseResult where
  | unwritten
  | err (code : ResultCode)
  | ok (r : ParsedFields)
deriving DecidableEq, Repr

/-- The test of step 2: version ≠ 0, type ≠ 1 or secondary-header flag ≠ 1 (R151, R253). -/
def headerBad (w1 : BitVec 16) : Bool :=
  decide (w1.extractLsb' 13 3 ≠ 0) || decide (w1.extractLsb' 12 1 ≠ 1) || decide (w1.extractLsb' 11 1 ≠ 1)

/-- The test of step 3: sequence flags ≠ 3 (R152, R254). -/
def flagsBad (w2 : BitVec 16) : Bool := decide (w2.extractLsb' 14 2 ≠ 3)

/-- Steps 5 to 9 of ParseCore, once the primary header words `w1`, `w2` have passed steps 1 to 4 (R251). -/
def parseSpan (m : Memory) (n : Nat) (utf8Check trailCheck : Bool) (w1 w2 : BitVec 16) : ParseResult :=
  let span := n - Config.hdrLen - Config.digestLen
  if span < Config.secFixed then .err .secHdrTruncated else
  match bufRead m .inb 6 8, bufRead m .inb 14 2 with
  | some tsBytes, some idLenBytes =>
    let idLen := be16 idLenBytes
    let lid := idLen.toNat
    if span < 10 + lid then .err .idIncomplete else
    match bufRead m .inb 16 lid with
    | none => .unwritten
    | some g =>
      if utf8Check && !wellFormedUtf8 g then .err .idNotUtf8 else
      if span < 10 + lid + 2 then .err .cmdLenMissing else
      match bufRead m .inb (16 + lid) 2 with
      | none => .unwritten
      | some cmdLenBytes =>
        let cmdLen := be16 cmdLenBytes
        let lc := cmdLen.toNat
        if span < 12 + lid + lc then .err .cmdTruncated else
        match bufRead m .inb (18 + lid) lc with
        | none => .unwritten
        | some c =>
          if utf8Check && !wellFormedUtf8 c then .err .cmdNotUtf8 else
          if trailCheck && decide (12 + lid + lc ≠ span) then .err .trailingBytes else
          .ok { apid := w1.extractLsb' 0 11
                seq := w2.extractLsb' 0 14
                ts := be64 tsBytes
                idLen := idLen
                cmdLen := cmdLen
                rawLen := n - Config.digestLen }
  | _, _ => .unwritten

/-- `ParseCore()` (R251): a function of the memory (of which it reads IN_BUF alone), N = IN_LEN and the two CTRL
switches, and of nothing else (R299). Steps 1 to 4 stand here, steps 5 to 9 in `parseSpan`. -/
def parseCore (m : Memory) (n : Nat) (utf8Check trailCheck : Bool) : ParseResult :=
  if n < Config.parseMin then .err .tooShort else
  match bufRead m .inb 0 2 with
  | none => .unwritten
  | some b1 =>
    let w1 := be16 b1
    if headerBad w1 then .err .badHeader else
    match bufRead m .inb 2 2 with
    | none => .unwritten
    | some b2 =>
      let w2 := be16 b2
      if flagsBad w2 then .err .fragmented else
      match bufRead m .inb 4 2 with
      | none => .unwritten
      | some b3 =>
        if (be16 b3).toNat + 1 + 6 ≠ n then .err .lengthMismatch else
        parseSpan m n utf8Check trailCheck w1 w2

/-- ParseCore on the current state. -/
def parseState (s : State) : ParseResult := parseCore s.mem (inCount s) s.ctrl.utf8Check s.ctrl.trailCheck

/-- PARSE, R250. It needs no LOCK (R270) and reads no key (R267). -/
def execParse (s : State) : Host.Outcome State Fault Refusal :=
  match parseState s with
  | .unwritten => .fault .unwrittenInput
  | .err code => .next (finish (clearParsed s) code .none)
  | .ok r => .next (finish (writeParsed s r) .ok .none)

end Machine
end Sys2Proof
end

