-- ==== Sys2Proof/Machine/Firewall.lean ====
section
/-! DEFINITION. The firewall (43_firewall.md): the operation INSPECT. -/

namespace Sys2Proof
namespace Machine

/-- Steps 2 to 4 of INSPECT (R290), once the packet has parsed as `r` and the state `s` holds the Parsed Packet. -/
def inspectParsed (s : State) (r : ParsedFields) : Host.Outcome State Fault Refusal :=
  match bufRead s.mem .inb 16 r.idLen.toNat with
  | none => .fault .unwrittenInput
  | some g =>
    if inAllowList s g then
      match bufRead s.mem .inb 0 r.rawLen, bufRead s.mem .inb r.rawLen Config.digestLen with
      | some m, some t =>
        if verify m t (keyV s) then .next (finish s .ok .accepted)
        else .next (finish s .authFailed .authFailed)
      | _, _ => .fault .unwrittenInput
    else .next (finish s .notAuthorized .unauthorizedGs)

/-- INSPECT, R290: lock check, RES_SRC, step 1, and steps 2 to 4 in `inspectParsed`. -/
def execInspect (s : State) : Host.Outcome State Fault Refusal :=
  if s.ctrl.lock = false then .next (finish s .notLocked .none)
  else
    match parseState s with
    | .unwritten => .fault .unwrittenInput
    | .err code => .next (finish (clearParsed (copySource s)) code .decodeFailure)
    | .ok r => inspectParsed (writeParsed (copySource s) r) r

end Machine
end Sys2Proof
end

