-- ==== Sys2Proof/Machine/Dispatch.lean ====
section
/-! DEFINITION. One arm per operation: the ENGINE's completion step of the operation (R118). -/

namespace Sys2Proof
namespace Machine

def exec (i : Instr) (s : State) : Host.Outcome State Fault Refusal :=
  match i with
  | .macSign => Sys2Proof.Machine.execMacSign s
  | .macVerify => Sys2Proof.Machine.execMacVerify s
  | .build => Sys2Proof.Machine.execBuild s
  | .parse => Sys2Proof.Machine.execParse s
  | .inspect => Sys2Proof.Machine.execInspect s

end Machine
end Sys2Proof
end

