-- ==== Sys2Proof/Machine/Step.lean ====
section
/-! DEFINITION. The step: one agent takes one turn (R8, R119). The order of the agents' turns is the plain list
`State.script`; when it is empty the ENGINE completes what is in flight, and an idle PCFE changes nothing (log 1). -/

namespace Sys2Proof
namespace Machine

/-- The ENGINE's turn (R118): enabled while BUSY = 1, it completes the operation OPL names; while idle it does
nothing. -/
def engineStep (s : State) : Host.Outcome State Fault Refusal :=
  if s.status.busy then
    match fetch s with
    | some i => exec i s
    | none => .fault .noOperation
  else .next s

/-- One agent's turn (R8). -/
def eventStep (s : State) (e : Event) : Host.Outcome State Fault Refusal :=
  match e with
  | .host x => .next (hostStep s x)
  | .engine => engineStep s
  | .tick => .next (tickStep s)
  | .reset => .next (resetStep s)

/-- One step: the next turn the script lists, or the ENGINE's when none is listed. -/
def step (s : State) : Host.Outcome State Fault Refusal :=
  match s.script with
  | [] => engineStep s
  | e :: rest => eventStep { s with script := rest } e

/-- `s` with the operation word `w` issued and the ENGINE's turn next (log 2). -/
def State.withFetchWord (s : State) (nbits w : Nat) : State := placeWord s (BitVec.ofNat 32 (w % 2 ^ nbits))

end Machine
end Sys2Proof
end

