-- ==== Sys2Proof/Machine/HostProgram.lean ====
section
/-! DEFINITION. The notation of host programs (R180, R181): a line, the bus transfers it stands for, and one schedule of
the agents that runs it. -/

namespace Sys2Proof
namespace Machine

/-- One line of a host program (R180) or one pseudo-instruction (R181). `polls` is how many reads of STATUS a WAIT
makes before the one that ends it: the k of 95_test_vectors.md is `polls + 1`. -/
inductive Line where
  | wr (off : Nat) (w : Word)
  | rd (off : Nat)
  | wait (polls : Nat)
  | issue (i : Instr) (polls : Nat)
  | load (window : Nat) (bytes : List Byte)
  | setTime (v : BitVec 64)
  | getTime
  | expect (off : Nat) (w : Word)
deriving DecidableEq, Repr

/-- The full-word write `WR off, w`. -/
def writeAt (off : Nat) (w : Word) : Transfer := .write off .word 0xF w

/-- The full-word read `RD off`. -/
def readAt (off : Nat) : Transfer := .read off .word

/-- The words `LOAD` writes: four bytes a word in lane order, the bytes past the end taken as 0x00 (R181). -/
def loadWords : List Byte → List Word
  | b0 :: b1 :: b2 :: b3 :: s => laneWord b0 b1 b2 b3 :: loadWords s
  | [b0, b1, b2] => [laneWord b0 b1 b2 0]
  | [b0, b1] => [laneWord b0 b1 0 0]
  | [b0] => [laneWord b0 0 0 0]
  | [] => []

/-- Writes of successive words from a window offset on. -/
def writeWords : Nat → List Word → List Transfer
  | _, [] => []
  | off, w :: ws => writeAt off w :: writeWords (off + 4) ws

/-- The transfers of `WAIT`. -/
def waitTransfers (polls : Nat) : List Transfer := List.replicate (polls + 1) (readAt 0x00C)

/-- A line's encoding: the list of its bus transfers in order (R180, R181). -/
def Line.transfers : Line → List Transfer
  | .wr off w => [writeAt off w]
  | .rd off => [readAt off]
  | .wait polls => waitTransfers polls
  | .issue i polls => writeAt 0x008 (encode i) :: waitTransfers polls
  | .load window bytes => writeWords window (loadWords bytes)
  | .setTime v => [writeAt 0x020 (v.extractLsb' 0 32), writeAt 0x024 (v.extractLsb' 32 32)]
  | .getTime => [readAt 0x020, readAt 0x024]
  | .expect off _ => [readAt off]

/-- A program's encoding (R180). -/
def programTransfers (p : List Line) : List Transfer := p.flatMap Line.transfers

/-- One schedule that runs a line: the ENGINE's turn comes after the polls that still see BUSY = 1. -/
def Line.events : Line → List Event
  | .wait polls => List.replicate polls (.host (readAt 0x00C)) ++ [.engine, .host (readAt 0x00C)]
  | .issue i polls =>
    .host (writeAt 0x008 (encode i)) :: (List.replicate polls (.host (readAt 0x00C)) ++ [.engine, .host (readAt 0x00C)])
  | l => l.transfers.map .host

/-- One schedule that runs a program; any other that has the same transfers in the same order is as good (R8, R119). -/
def programScript (p : List Line) : List Event := p.flatMap Line.events

/-- The claim of `EXPECT off, w` once its read has completed: the word returned is `w` (R181). -/
def expectMet (s : State) (w : Word) : Bool := decide (s.resp = some (.readDone false w))

/-- The bus transfers of a schedule, in order. -/
def hostTransfers : List Event → List Transfer
  | [] => []
  | .host x :: es => x :: hostTransfers es
  | .engine :: es => hostTransfers es
  | .tick :: es => hostTransfers es
  | .reset :: es => hostTransfers es

end Machine
end Sys2Proof
end

