-- ==== Sys2Proof/Safety.lean ====
section
/-! DEFINITION. The terms claims are stated in: what memory holds, which inputs an operation reads, what a frame keeps,
the wire format as the spec lays it out, and the invariant of the machine. -/

namespace Sys2Proof
namespace Machine

/-! ### Memory contents -/

/-- The bytes from `a` on are exactly those of `s`: the byte string `MemRead` would return (R12). -/
abbrev Holds (m : Memory) (a : Nat) (s : List Byte) : Prop :=
  ∀ k (h : k < s.length), Memory.read m (a + k) = some s[k]

/-- Every one of the `n` bytes from `a` on has a value: for a buffer, each was written since reset (R82). -/
abbrev Written (m : Memory) (a n : Nat) : Prop := ∀ k < n, (Memory.read m (a + k)).isSome = true

/-- How many bytes of IN_BUF a parse of an N-byte packet can ask for (R111): all N, or the first six when N is past the
buffer. -/
def packetBytes (n : Nat) : Nat := if n ≤ Config.inCap then n else 6

/-- R113's premise: every buffer byte the operation reads was written since reset. -/
def InputsWritten (i : Instr) (s : State) : Prop :=
  match i with
  | .macSign => s.ctrl.lock = true → inCount s ≤ Config.inCap → Written s.mem BufId.inb.base (inCount s)
  | .macVerify => s.ctrl.lock = true → inCount s ≤ Config.inCap → Written s.mem BufId.inb.base (inCount s)
  | .build =>
    s.ctrl.lock = true → s.gsidLen.toNat + s.cmdstrLen.toNat ≤ Config.bodyMax →
      Written s.mem BufId.gsid.base s.gsidLen.toNat ∧ Written s.mem BufId.cmdstr.base s.cmdstrLen.toNat
  | .parse => Config.parseMin ≤ inCount s → Written s.mem BufId.inb.base (packetBytes (inCount s))
  | .inspect =>
    s.ctrl.lock = true → Config.parseMin ≤ inCount s → Written s.mem BufId.inb.base (packetBytes (inCount s))

/-! ### Keys and tags -/

/-- `k` is the signing key: the KEY_S_LEN bytes of the KEY_S store (R70, R200). -/
structure SigningKey (s : State) (k : List Byte) : Prop where
  length_eq : k.length = s.keySLen.toNat
  fits : k.length ≤ 256
  held : Holds s.mem 0x400 k

/-- `k` is the verification key: the KEY_V_LEN bytes of the KEY_V store (R71, R200). -/
structure VerificationKey (s : State) (k : List Byte) : Prop where
  length_eq : k.length = s.keyVLen.toNat
  fits : k.length ≤ 256
  held : Holds s.mem 0x500 k

/-- `m'` is `m` with exactly one bit flipped (R302). -/
def OneBitApart (m m' : List Byte) : Prop :=
  ∃ (j : Nat) (h : j < m.length) (i : Nat), i < 8 ∧ m' = m.set j (m[j] ^^^ BitVec.twoPow 8 i)

/-- The hypothesis R302 asks for by name: under the key `k`, `mac` never gives one tag for two messages one bit apart. R7
lets a model assume nothing of MacFn, so a claim that needs this takes it as a premise, with `Config.macFn` for `mac`. -/
def OneBitDistinct (mac : List Byte → List Byte → Vector Byte 32) (k : List Byte) : Prop :=
  ∀ m m' : List Byte, m.length ≤ Config.inCap → OneBitApart m m' → mac k m ≠ mac k m'

/-! ### The wire format (R150 to R156), in the spec's numbers -/

/-- Bytes 0 to 17 + Lid + Lc of a packet: everything the tag covers (R150, R156, R234). -/
def wireUnsigned (apid : BitVec 11) (seq : BitVec 14) (ts : BitVec 64) (g c : List Byte) : List Byte :=
  enc16 (0x1800 + apid.toNat) ++ enc16 (0xC000 + seq.toNat) ++ enc16 (g.length + c.length + 43) ++ enc64 ts.toNat
    ++ enc16 g.length ++ g ++ enc16 c.length ++ c

/-- The P_* group of such a packet, N = 50 + Lid + Lc bytes long (R264). -/
def wireParsed (apid : BitVec 11) (seq : BitVec 14) (ts : BitVec 64) (lid lc n : Nat) : ParsedRegs :=
  { valid := true
    apid := apid
    seq := seq
    tsLo := ts.extractLsb' 0 32
    tsHi := ts.extractLsb' 32 32
    idOff := 16
    idLen := BitVec.ofNat 16 lid
    cmdOff := BitVec.ofNat 17 (18 + lid)
    cmdLen := BitVec.ofNat 16 lc
    rawLen := BitVec.ofNat 17 (n - 32)
    sigOff := BitVec.ofNat 17 (n - 32) }

/-- IN_BUF holds a well-framed packet whose header values pass steps 2 to 4 (R251), whose span (secondary header and
payload) is `span` and whose trailer is `trailer`. -/
structure Framed (s : State) (apid : BitVec 11) (seq : BitVec 14) (span trailer : List Byte) : Prop where
  held : Holds s.mem BufId.inb.base
    (enc16 (0x1800 + apid.toNat) ++ enc16 (0xC000 + seq.toNat) ++ enc16 (span.length + 31) ++ span ++ trailer)
  trailer_length : trailer.length = 32
  span_fits : span.length + 31 < 65536
  count : inCount s = span.length + 38

/-- A string passes the UTF-8 check of CTRL (R262). -/
def PassesUtf8 (c : Ctrl) (s : List Byte) : Prop := c.utf8Check = true → wellFormedUtf8 s = true

/-- The primary header of the wire format (R157). -/
def wireHeader (apid : BitVec 11) (seq : BitVec 14) (pl : Nat) : List Byte :=
  enc16 (0x1800 + apid.toNat) ++ enc16 (0xC000 + seq.toNat) ++ enc16 pl

/-- The reads of ParseCore in their order (R251, R269): once the bytes `p` at the start of IN_BUF have passed every check
on them, the next bytes asked for are the `n` after them. The span of a packet is `pl - 31` bytes long (R256). -/
inductive AsksFor (s : State) : List Byte → Nat → Prop where
  /-- Step 2: header word 1. -/
  | word1 : Config.parseMin ≤ inCount s → AsksFor s [] 2
  /-- Step 3: header word 2. -/
  | word2 (apid : BitVec 11) : Config.parseMin ≤ inCount s → AsksFor s (enc16 (0x1800 + apid.toNat)) 2
  /-- Step 4: packet_length. -/
  | word3 (apid : BitVec 11) (seq : BitVec 14) : Config.parseMin ≤ inCount s →
    AsksFor s (enc16 (0x1800 + apid.toNat) ++ enc16 (0xC000 + seq.toNat)) 2
  /-- Step 6: the timestamp and the ID length. -/
  | secondary (apid : BitVec 11) (seq : BitVec 14) (pl : Nat) : pl < 65536 → inCount s = pl + 7 → 10 + 31 ≤ pl →
    AsksFor s (wireHeader apid seq pl) 10
  /-- Step 7a: the ID. -/
  | id (apid : BitVec 11) (seq : BitVec 14) (pl : Nat) (ts : BitVec 64) (lid : Nat) : pl < 65536 → inCount s = pl + 7 →
    lid < 65536 → 10 + lid + 31 ≤ pl → AsksFor s (wireHeader apid seq pl ++ enc64 ts.toNat ++ enc16 lid) lid
  /-- Step 7b: the command length. -/
  | cmdLen (apid : BitVec 11) (seq : BitVec 14) (pl : Nat) (ts : BitVec 64) (g : List Byte) : pl < 65536 →
    inCount s = pl + 7 → PassesUtf8 s.ctrl g → 12 + g.length + 31 ≤ pl →
    AsksFor s (wireHeader apid seq pl ++ enc64 ts.toNat ++ enc16 g.length ++ g) 2
  /-- Step 8: the command string. -/
  | cmd (apid : BitVec 11) (seq : BitVec 14) (pl : Nat) (ts : BitVec 64) (g : List Byte) (lc : Nat) : pl < 65536 →
    inCount s = pl + 7 → PassesUtf8 s.ctrl g → lc < 65536 → 12 + g.length + lc + 31 ≤ pl →
    AsksFor s (wireHeader apid seq pl ++ enc64 ts.toNat ++ enc16 g.length ++ g ++ enc16 lc) lc

/-- One row of R262's table, written out: the byte sequences of one code point. -/
def Utf8Sequence : List Byte → Prop
  | [a] => a.toNat ≤ 0x7F
  | [a, b] => (0xC2 ≤ a.toNat ∧ a.toNat ≤ 0xDF) ∧ (0x80 ≤ b.toNat ∧ b.toNat ≤ 0xBF)
  | [a, b, c] =>
    ((a.toNat = 0xE0 ∧ 0xA0 ≤ b.toNat ∧ b.toNat ≤ 0xBF)
      ∨ (0xE1 ≤ a.toNat ∧ a.toNat ≤ 0xEC ∧ 0x80 ≤ b.toNat ∧ b.toNat ≤ 0xBF)
      ∨ (a.toNat = 0xED ∧ 0x80 ≤ b.toNat ∧ b.toNat ≤ 0x9F)
      ∨ (0xEE ≤ a.toNat ∧ a.toNat ≤ 0xEF ∧ 0x80 ≤ b.toNat ∧ b.toNat ≤ 0xBF))
    ∧ (0x80 ≤ c.toNat ∧ c.toNat ≤ 0xBF)
  | [a, b, c, d] =>
    ((a.toNat = 0xF0 ∧ 0x90 ≤ b.toNat ∧ b.toNat ≤ 0xBF)
      ∨ (0xF1 ≤ a.toNat ∧ a.toNat ≤ 0xF3 ∧ 0x80 ≤ b.toNat ∧ b.toNat ≤ 0xBF)
      ∨ (a.toNat = 0xF4 ∧ 0x80 ≤ b.toNat ∧ b.toNat ≤ 0x8F))
    ∧ (0x80 ≤ c.toNat ∧ c.toNat ≤ 0xBF) ∧ (0x80 ≤ d.toNat ∧ d.toNat ≤ 0xBF)
  | _ => False

/-! ### What stays the same -/

/-- `t` is `s` but for the clock, its shadow, the IRQ registers and the model's own fields: all that can change while an
operation is in flight, before its completion (R116, R117). -/
def BusyFrame (s t : State) : Prop :=
  t = { s with
    time := t.time
    timeRhi := t.timeRhi
    irqStatus := t.irqStatus
    irqEnable := t.irqEnable
    script := t.script
    resp := t.resp
    draws := t.draws }

/-- The lock-frozen set (R54) and CTRL's frozen fields (R34) are the same in both states. -/
structure SameConfig (s t : State) : Prop where
  lock : t.ctrl.lock = s.ctrl.lock
  utf8Check : t.ctrl.utf8Check = s.ctrl.utf8Check
  trailCheck : t.ctrl.trailCheck = s.ctrl.trailCheck
  apid : t.apid = s.apid
  keySLen : t.keySLen = s.keySLen
  keyVLen : t.keyVLen = s.keyVLen
  allowCtl : t.allowCtl = s.allowCtl
  stores : ∀ a, isStore a = true → Memory.read t.mem a = Memory.read s.mem a

/-- An aligned offset of the lock-frozen set (R54). -/
def inFrozenSet (off : Nat) : Bool :=
  decide (off = 0x018) || decide (off = 0x044) || decide (off = 0x048)
    || (decide (0x100 ≤ off) && decide (off < 0x140)) || (decide (0x400 ≤ off) && decide (off < 0x600))
    || (decide (0x1000 ≤ off) && decide (off < 0x2000))

/-- An offset a write to which is ignored without a flag: the read-only registers, OUT_BUF's window, the reserved
offsets and the tail of IN_BUF's window (R53, R106 to R108). -/
def inIgnoredSet (off : Nat) : Bool :=
  decide (off = 0x000) || decide (off = 0x00C) || decide (off = 0x01C) || decide (off = 0x02C)
    || decide (off = 0x038) || decide (off = 0x04C) || (decide (0x050 ≤ off) && decide (off < 0x080))
    || (decide (0x0A0 ≤ off) && decide (off < 0x100)) || (decide (0x140 ≤ off) && decide (off < 0x400))
    || (decide (0x600 ≤ off) && decide (off < 0x1000)) || (decide (0x2000 ≤ off) && decide (off < 0x10000))
    || (decide (0x30000 ≤ off) && decide (off < 0x60000)) || (decide (0x60000 + 65544 ≤ off) && decide (off < 0x80000))

/-- An offset that reads 0 always: OP, the key windows, the reserved offsets and the tails of OUT_BUF's and IN_BUF's
windows (R35, R53, R72, R106, R107). -/
def inZeroSet (off : Nat) : Bool :=
  decide (off = 0x008) || decide (off = 0x04C) || decide (off = 0x07C)
    || (decide (0x0A0 ≤ off) && decide (off < 0x100)) || (decide (0x140 ≤ off) && decide (off < 0x1000))
    || (decide (0x2000 ≤ off) && decide (off < 0x10000)) || (decide (0x30000 ≤ off) && decide (off < 0x40000))
    || (decide (0x40000 + 65544 ≤ off) && decide (off < 0x60000))
    || (decide (0x60000 + 65544 ≤ off) && decide (off < 0x80000))

/-- The word a host reads at each register with an offset of its own (R33 to R50), the P_* group left out; the fields
stand from bit 0 on, reserved bits 0. `Obligations.FlagWordsLayout` says where the fields of CTRL, STATUS and IRQ_STATUS
stand. -/
def controlWords (s : State) : List (Nat × Word) :=
  [ (0x000, 0x50434601), (0x004, s.ctrl.word), (0x008, 0), (0x00C, s.status.word), (0x010, s.irqStatus.word),
    (0x014, s.irqEnable.word), (0x018, s.apid.setWidth 32), (0x01C, s.seq.setWidth 32),
    (0x020, s.time.extractLsb' 0 32), (0x024, s.timeRhi), (0x028, s.srcTag), (0x02C, s.resSrc),
    (0x030, s.gsidLen.setWidth 32), (0x034, s.cmdstrLen.setWidth 32), (0x038, s.outLen.setWidth 32), (0x03C, s.inLen),
    (0x040, s.tagLen.setWidth 32), (0x044, s.keySLen.setWidth 32), (0x048, s.keyVLen.setWidth 32) ]

/-- The words of the P_* group (R61 to R69). -/
def parsedWords (p : ParsedRegs) : List (Nat × Word) :=
  [ (0x050, (BitVec.ofBool p.valid).setWidth 32), (0x054, p.apid.setWidth 32), (0x058, p.seq.setWidth 32),
    (0x05C, p.tsLo), (0x060, p.tsHi), (0x064, p.idOff.setWidth 32), (0x068, p.idLen.setWidth 32),
    (0x06C, p.cmdOff.setWidth 32), (0x070, p.cmdLen.setWidth 32), (0x074, p.rawLen.setWidth 32),
    (0x078, p.sigOff.setWidth 32) ]

/-- Offset and word of every register with an offset of its own (R33). -/
def registerWords (s : State) : List (Nat × Word) := controlWords s ++ parsedWords s.parsed

/-! ### Runs -/

/-- The step of `s` is the completion of a BUILD that succeeds. -/
def builtNow (s : State) : Bool :=
  (s.status.busy && decide (s.opl = 0x03) && decide (s.script = [] ∨ s.script.head? = some .engine)) &&
    match step s with
    | .next t => t.status.ok
    | .fault _ => false
    | .refused _ => false

/-- How many of the first k steps from `s` complete a BUILD that succeeds (R233). -/
def buildsIn : Nat → State → Nat
  | 0, _ => 0
  | k + 1, s =>
    (if builtNow s then 1 else 0) +
      match step s with
      | .next t => buildsIn k t
      | .fault _ => 0
      | .refused _ => 0

/-! ### The invariant -/

/-- The event kinds a completion with a given result code can carry (R172, R290): NONE outside a firewall decision. -/
def eventFits (code : ResultCode) (ev : EventKind) : Prop :=
  ev = .none ∨ (ev = .decodeFailure ∧ classOf code = 1) ∨ (ev = .unauthorizedGs ∧ code = .notAuthorized) ∨
    (ev = .authFailed ∧ code = .authFailed) ∨ (ev = .accepted ∧ code = .ok)

/-- STATUS is one of the values the rules write: 0 (R85), BUSY alone (R140), or a completion's (R322) with a code of
R170 and an event of R172 that goes with it. -/
def StatusLegal (x : Status) : Prop :=
  x = Status.zero ∨ x = Status.issued ∨ ∃ code ev, eventFits code ev ∧ x = Status.completed code ev

/-- The P_* group is 0 when P_VALID = 0 (R60), and else its offsets are those of R65, R67 and R69. -/
def ParsedLegal (p : ParsedRegs) : Prop :=
  (p.valid = false → p = ParsedRegs.zero) ∧
    (p.valid = true → p.idOff.toNat = 16 ∧ p.cmdOff.toNat = 18 + p.idLen.toNat ∧ p.rawLen = p.sigOff)

/-- OUT_LEN is 0 or the length of a packet, and OUT_BUF holds that many written bytes (R46, R111). -/
def OutLegal (s : State) : Prop :=
  (s.outLen = 0 ∨ (Config.pktMin ≤ s.outLen.toNat ∧ s.outLen.toNat ≤ Config.pktMax)) ∧
    Written s.mem BufId.out.base s.outLen.toNat

/-- What every reachable state of the PCFE satisfies. -/
structure Inv (s : State) : Prop where
  /-- Memory keeps its canonical form (log 18). -/
  mem : Memory.wf s.mem
  /-- While BUSY = 1, OPL holds a legal opcode (R80, R140). -/
  latch : s.status.busy = true → ∃ i, fetch s = some i
  status : StatusLegal s.status
  parsed : ParsedLegal s.parsed
  out : OutLegal s
  /-- KEY_S_LEN and KEY_V_LEN hold 0 to 256 (R49, R50). -/
  keys : s.keySLen.toNat ≤ Config.keyMax ∧ s.keyVLen.toNat ≤ Config.keyMax
  /-- Every allow-list LEN is 0 to 256 (R52). -/
  allow : ∀ i : Fin 16, s.allowCtl[i].len.toNat ≤ Config.allowMax

end Machine
end Sys2Proof
end

