-- ==== Sys2Proof/Certificates/Slice0/Obligations.lean ====
section
/-! DEFINITION. The statements for the provers. -/

open Sys2Proof Sys2Proof.Machine

/-! ### Encodings -/

/-- R141: the five words of the opcode map decode to their operations, each by the whole word, and no other word
decodes. -/
def Obligations.OpcodeMapByWholeWord : Prop :=
  ∀ w : Word,
    (decode w = .ok .macSign ↔ w = 0x00000001) ∧ (decode w = .ok .macVerify ↔ w = 0x00000002) ∧
    (decode w = .ok .build ↔ w = 0x00000003) ∧ (decode w = .ok .parse ↔ w = 0x00000004) ∧
    (decode w = .ok .inspect ↔ w = 0x00000005)

/-- R140, R141: decoding an encoded operation gives it back, and a word that decodes is the encoding of what it decodes
to. -/
def Obligations.DecodeEncodeAgree : Prop :=
  (∀ i : Instr, decode (encode i) = .ok i) ∧ ∀ (w : Word) (i : Instr), decode w = .ok i → encode i = w

/-- R157, R158: the header assembled from an APID, a count and a length reads back as them, with the fixed fields at the
values steps 2 and 3 of the parse ask for. -/
def Obligations.HeaderFieldsReadBack : Prop :=
  ∀ (apid : BitVec 11) (seq : BitVec 14) (pl : Nat), pl < 65536 →
    let h := header apid seq pl
    let w1 := be16 (h.take 2)
    let w2 := be16 ((h.drop 2).take 2)
    let w3 := be16 ((h.drop 4).take 2)
    h.length = 6 ∧ w1.extractLsb' 13 3 = 0 ∧ w1.extractLsb' 12 1 = 1 ∧ w1.extractLsb' 11 1 = 1 ∧
      w1.extractLsb' 0 11 = apid ∧ w2.extractLsb' 14 2 = 3 ∧ w2.extractLsb' 0 14 = seq ∧ w3.toNat = pl

/-- R36, R34, R37: where each field stands in the words of STATUS, CTRL and IRQ_STATUS, reserved bits reading 0. -/
def Obligations.FlagWordsLayout : Prop :=
  (∀ x : Status,
    x.word.getLsbD 0 = x.busy ∧ x.word.getLsbD 1 = x.done ∧ x.word.getLsbD 2 = x.ok ∧ x.word.getLsbD 3 = x.accept ∧
    x.word.extractLsb' 4 4 = 0 ∧ x.word.extractLsb' 8 8 = x.result ∧ x.word.extractLsb' 16 3 = x.cls ∧
    x.word.getLsbD 19 = false ∧ x.word.extractLsb' 20 3 = x.event ∧ x.word.getLsbD 23 = false ∧
    x.word.extractLsb' 24 2 = x.severity ∧ x.word.extractLsb' 26 6 = 0) ∧
  (∀ c : Ctrl,
    c.word.getLsbD 0 = c.lock ∧ c.word.getLsbD 1 = c.utf8Check ∧ c.word.getLsbD 2 = c.trailCheck ∧
    c.word.getLsbD 3 = c.timeRun ∧ c.word.extractLsb' 4 28 = 0) ∧
  ∀ q : Irq,
    q.word.getLsbD 0 = q.done ∧ q.word.getLsbD 1 = q.cmdErr ∧ q.word.getLsbD 2 = q.alert ∧
    q.word.getLsbD 3 = q.wrErr ∧ q.word.extractLsb' 4 28 = 0

/-! ### Issue and the step -/

/-- R140: the write of a legal word to OP while idle leaves BUSY alone in STATUS, the opcode in OPL and, for BUILD only,
TIME in TS_LATCH. -/
def Obligations.IssueStartsOperation : Prop :=
  ∀ (s : State) (rest : List Event) (i : Instr), s.status.busy = false →
    step { s with script := .host (writeAt 0x008 (encode i)) :: rest } =
      .next { s with
        script := rest
        resp := some (.writeDone false)
        status := { Status.zero with busy := true }
        opl := opcode i
        tsLatch := if i = .build then s.time else s.tsLatch }

/-- R323: an illegal word completes at once, in the host's own step, as ILLEGAL_OP; while BUSY = 1 a write to OP is not
decoded at all but dropped with WR_ERR, and the operation in flight continues. -/
def Obligations.IllegalWordCompletesAtOnce : Prop :=
  ∀ (s : State) (rest : List Event) (w : Word),
    (s.status.busy = false → (w.extractLsb' 8 24 ≠ 0 ∨ ¬ (1 ≤ w.toNat ∧ w.toNat ≤ 5)) →
      step { s with script := .host (writeAt 0x008 w) :: rest } =
        .next { s with
          script := rest
          resp := some (.writeDone false)
          status := { Status.zero with done := true, result := 0x30, cls := 5 }
          irqStatus := { s.irqStatus with done := true, cmdErr := true } }) ∧
    (s.status.busy = true →
      step { s with script := .host (writeAt 0x008 w) :: rest } =
        .next { s with
          script := rest
          resp := some (.writeDone false)
          irqStatus := { s.irqStatus with wrErr := true } })

/-- R118: when BUSY = 1 and it is the ENGINE's turn, or no turn is listed (the model's schedule, log 1), the step is
the completion of the operation OPL names. -/
def Obligations.StepRunsFetchedOperation : Prop :=
  ∀ (s : State) (rest : List Event) (i : Instr), s.status.busy = true → s.opl = opcode i →
    step { s with script := .engine :: rest } = exec i { s with script := rest } ∧
    step { s with script := [] } = exec i { s with script := [] }

/-- R322, R321: what every completion, of any operation, leaves in STATUS and IRQ_STATUS. No completion clears an
IRQ_STATUS bit or touches WR_ERR or OPL. -/
def Obligations.CompletionRule : Prop :=
  ∀ (i : Instr) (s t : State), exec i s = .next t →
    (∃ (code : ResultCode) (ev : EventKind),
      t.status.busy = false ∧ t.status.done = true ∧ t.status.result = code.bits ∧ t.status.cls = classOf code ∧
      (t.status.ok = true ↔ code = .ok) ∧ (t.status.accept = true ↔ code = .ok ∧ ev = .accepted) ∧
      t.status.event = ev.bits ∧ t.status.severity = severityOf ev ∧ (i ≠ .inspect → ev = .none)) ∧
    t.irqStatus.done = true ∧
    (t.irqStatus.cmdErr = true ↔ s.irqStatus.cmdErr = true ∨ t.status.cls = 5) ∧
    (t.irqStatus.alert = true ↔ s.irqStatus.alert = true ∨ t.status.severity = 3) ∧
    t.irqStatus.wrErr = s.irqStatus.wrErr ∧ t.opl = s.opl

/-- R324: the four operations that use the keys or the allow-list end with NOT_LOCKED while LOCK = 0 and change nothing
but STATUS and IRQ_STATUS; PARSE has no lock check, so LOCK makes no difference to it. -/
def Obligations.NotLockedChangesNothing : Prop :=
  (∀ (s : State) (i : Instr), s.ctrl.lock = false → i ≠ .parse →
    exec i s =
      .next { s with
        status := { Status.zero with done := true, result := 0x31, cls := 5 }
        irqStatus := { s.irqStatus with done := true, cmdErr := true } }) ∧
  ∀ (s t : State) (b : Bool), exec .parse s = .next t →
    exec .parse { s with ctrl := { s.ctrl with lock := b } } = .next { t with ctrl := { t.ctrl with lock := b } }

/-- R325: the MAC operations end with BAD_LENGTH past the buffer, after the lock check, and change nothing else; no
other operation produces BAD_LENGTH. -/
def Obligations.BadLengthOnlyFromMac : Prop :=
  (∀ (s : State) (i : Instr), s.ctrl.lock = true → 65544 < s.inLen.toNat → (i = .macSign ∨ i = .macVerify) →
    exec i s =
      .next { s with
        status := { Status.zero with done := true, result := 0x32, cls := 5 }
        irqStatus := { s.irqStatus with done := true, cmdErr := true } }) ∧
  ∀ (s t : State) (i : Instr), (i = .build ∨ i = .parse ∨ i = .inspect) → exec i s = .next t →
    t.status.result ≠ 0x32

/-- R113: an operation whose every input byte was written completes; it never faults. -/
def Obligations.WrittenInputsComplete : Prop :=
  ∀ (i : Instr) (s : State), InputsWritten i s → ∃ t, exec i s = .next t

/-- R113: an operation that reads a byte nothing wrote is the model fault UNWRITTEN_INPUT: the message of the MAC
operations, the strings of BUILD, each read of ParseCore in its turn (`AsksFor`), and the whole packet an INSPECT goes on
to read once the ID is listed. For an ID that is not listed INSPECT reads no more and completes. -/
def Obligations.UnwrittenInputFaults : Prop :=
  (∀ (s : State) (i : Instr), (i = .macSign ∨ i = .macVerify) → s.ctrl.lock = true → s.inLen.toNat ≤ 65544 →
    (∃ k < s.inLen.toNat, Memory.read s.mem (0x60000 + k) = none) → exec i s = .fault .unwrittenInput) ∧
  (∀ s : State, s.ctrl.lock = true → s.gsidLen.toNat + s.cmdstrLen.toNat ≤ 65492 →
    ((∃ k < s.gsidLen.toNat, Memory.read s.mem (0x10000 + k) = none) ∨
      ∃ k < s.cmdstrLen.toNat, Memory.read s.mem (0x20000 + k) = none) → exec .build s = .fault .unwrittenInput) ∧
  (∀ (s : State) (i : Instr) (p : List Byte) (n : Nat), (i = .parse ∨ i = .inspect ∧ s.ctrl.lock = true) →
    AsksFor s p n → Holds s.mem 0x60000 p → (∃ k < n, Memory.read s.mem (0x60000 + p.length + k) = none) →
    exec i s = .fault .unwrittenInput) ∧
  ∀ (s t : State) (g : List Byte), s.ctrl.lock = true → exec .parse s = .next t → t.status.ok = true →
    g.length = t.parsed.idLen.toNat → Holds s.mem (0x60000 + 16) g →
    (inAllowList s g = true → (∃ k < s.inLen.toNat, Memory.read s.mem (0x60000 + k) = none) →
      exec .inspect s = .fault .unwrittenInput) ∧
    (inAllowList s g = false → ∃ v, exec .inspect s = .next v ∧ v.status.result = 0x10)

/-! ### The keyed MAC -/

/-- R201: `CTEq` is plain equality; on strings of one length it examines every byte pair; its time is a function of the
two lengths. (The third clause is R376's contract as the model takes it: its time is the model's own uninterpreted cost of
the two lengths, DEDUCED, log 13.) -/
def Obligations.ConstantTimeEquality : Prop :=
  (∀ a b : List Byte, ctEq a b = true ↔ a = b) ∧
  (∀ a b : List Byte, a.length = b.length → ctPairs a b = a.length) ∧
  ∀ a a' b b' : List Byte, a.length = a'.length → b.length = b'.length → ctTime a b = ctTime a' b'

/-- R203, R200, R70: MAC_SIGN with LOCK = 1 and a message that fits and was written puts `MacFn(k, message)` in the TAG
bank, byte j in lane j mod 4 of TAG(j div 4), and 32 in TAG_LEN, and succeeds; k is the KEY_S_LEN bytes of KEY_S. -/
def Obligations.MacSignSigns : Prop :=
  ∀ (s : State) (k msg : List Byte), SigningKey s k → s.ctrl.lock = true → msg.length = s.inLen.toNat →
    msg.length ≤ 65544 → Holds s.mem 0x60000 msg →
    ∃ bank : Vector Word 8,
      (∀ j : Fin 32, (bank[j.val / 4]'(by omega)).extractLsb' (8 * (j.val % 4)) 8 = (Config.macFn k msg)[j]) ∧
      exec .macSign s =
        .next { s with
          tag := bank
          tagLen := 32
          status := { Status.zero with done := true, ok := true }
          irqStatus := { s.irqStatus with done := true } }

/-- R204, R207, R200, R71: MAC_VERIFY answers true exactly when TAG_LEN is 32 and the TAG bank holds `MacFn(k, message)`,
k being the KEY_V_LEN bytes of KEY_V, and it changes nothing but STATUS and IRQ_STATUS. -/
def Obligations.MacVerifyDecides : Prop :=
  ∀ (s : State) (k msg : List Byte), VerificationKey s k → s.ctrl.lock = true → msg.length = s.inLen.toNat →
    msg.length ≤ 65544 → Holds s.mem 0x60000 msg →
    let provided : Prop := s.tagLen.toNat = 32 ∧ ∀ j : Fin 32,
      (s.tag[j.val / 4]'(by omega)).extractLsb' (8 * (j.val % 4)) 8 = (Config.macFn k msg)[j]
    (provided →
      exec .macVerify s =
        .next { s with
          status := { Status.zero with done := true, ok := true }
          irqStatus := { s.irqStatus with done := true } }) ∧
    (¬ provided →
      exec .macVerify s =
        .next { s with
          status := { Status.zero with done := true, result := 0x11, cls := 3 }
          irqStatus := { s.irqStatus with done := true } })

/-- R203, R204, R206: the tag MAC_SIGN leaves verifies under a verification key with the same bytes. -/
def Obligations.SignedMessageVerifies : Prop :=
  ∀ (s t : State) (k : List Byte), exec .macSign s = .next t → t.status.ok = true → SigningKey s k →
    VerificationKey s k →
    ∃ u, exec .macVerify t = .next u ∧ u.status.ok = true ∧ u.status.result = 0x00 ∧ u.tag = t.tag

/-- The frame of the MAC operations (R145, R203, R204, R205): MAC_SIGN writes TAG0 to TAG7 and TAG_LEN, and only when it
succeeds; MAC_VERIFY writes neither. Both leave everything else but STATUS and IRQ_STATUS, memory included. -/
def Obligations.MacFrame : Prop :=
  (∀ s t : State, exec .macSign s = .next t →
    t = { s with tag := t.tag, tagLen := t.tagLen, status := t.status, irqStatus := t.irqStatus } ∧
    (t.status.ok = false → t.tag = s.tag ∧ t.tagLen = s.tagLen) ∧
    ∀ a, Memory.read t.mem a = Memory.read s.mem a) ∧
  ∀ s t : State, exec .macVerify s = .next t →
    t = { s with status := t.status, irqStatus := t.irqStatus } ∧ ∀ a, Memory.read t.mem a = Memory.read s.mem a

/-! ### BUILD -/

/-- R220, R226, R227, R234: BUILD with LOCK = 1, both strings written, well-formed where checked and short enough
succeeds; OUT_BUF then holds the packet of the wire format with its tag, OUT_LEN its length, SEQ the next count; every
register BUILD does not write and every byte outside the packet is as before. The tag is
`MacFn(k, packet)`, k being the KEY_S_LEN bytes of KEY_S (R70, R200). -/
def Obligations.BuildWritesPacket : Prop :=
  ∀ (s : State) (k g c : List Byte), SigningKey s k → s.ctrl.lock = true → g.length = s.gsidLen.toNat →
    c.length = s.cmdstrLen.toNat → g.length + c.length ≤ 65492 → Holds s.mem 0x10000 g → Holds s.mem 0x20000 c →
    PassesUtf8 s.ctrl g → PassesUtf8 s.ctrl c →
    ∃ mem : Memory,
      Holds mem 0x40000 (wireUnsigned s.apid s.seq s.tsLatch g c
        ++ (Config.macFn k (wireUnsigned s.apid s.seq s.tsLatch g c)).toList) ∧
      (∀ a, ¬ (0x40000 ≤ a ∧ a < 0x40000 + (g.length + c.length + 50)) →
        Memory.read mem a = Memory.read s.mem a) ∧
      exec .build s =
        .next { s with
          mem := mem
          outLen := BitVec.ofNat 17 (g.length + c.length + 50)
          seq := BitVec.ofNat 14 ((s.seq.toNat + 1) % 16384)
          status := { Status.zero with done := true, ok := true }
          irqStatus := { s.irqStatus with done := true } }

/-- R222, R223: the three ways the inputs of a BUILD are refused, in their order of precedence; the length check reads no
buffer byte. -/
def Obligations.BuildRefusesInputs : Prop :=
  (∀ s : State, s.ctrl.lock = true → 65492 < s.gsidLen.toNat + s.cmdstrLen.toNat →
    exec .build s =
      .next { s with
        outLen := 0
        status := { Status.zero with done := true, result := 0x20, cls := 4 }
        irqStatus := { s.irqStatus with done := true } }) ∧
  ∀ (s : State) (g c : List Byte), s.ctrl.lock = true → s.ctrl.utf8Check = true →
    g.length = s.gsidLen.toNat → c.length = s.cmdstrLen.toNat → g.length + c.length ≤ 65492 →
    Holds s.mem 0x10000 g → Holds s.mem 0x20000 c →
    (wellFormedUtf8 g = false →
      exec .build s =
        .next { s with
          outLen := 0
          status := { Status.zero with done := true, result := 0x21, cls := 4 }
          irqStatus := { s.irqStatus with done := true } }) ∧
    (wellFormedUtf8 g = true → wellFormedUtf8 c = false →
      exec .build s =
        .next { s with
          outLen := 0
          status := { Status.zero with done := true, result := 0x22, cls := 4 }
          irqStatus := { s.irqStatus with done := true } })

/-- R229: a BUILD that fails with class 4 writes OUT_LEN <- 0 and leaves OUT_BUF and SEQ; one that fails with NOT_LOCKED
leaves OUT_LEN too; so after any failed BUILD either OUT_LEN = 0 or STATUS says NOT_LOCKED. -/
def Obligations.FailedBuildLeavesNoPacket : Prop :=
  ∀ s t : State, exec .build s = .next t →
    (t.status.cls = 4 → t = { s with outLen := 0, status := t.status, irqStatus := t.irqStatus }) ∧
    (t.status.result = 0x31 → t = { s with status := t.status, irqStatus := t.irqStatus }) ∧
    (t.status.ok = false → t.outLen = 0 ∨ t.status.result = 0x31)

/-- R228: a successful BUILD advances SEQ in the step that writes the packet carrying the old SEQ; a failed BUILD, of any
class, leaves SEQ unchanged. -/
def Obligations.SeqAdvancesOnSuccessOnly : Prop :=
  ∀ s t : State, exec .build s = .next t →
    (t.status.ok = true →
      t.seq.toNat = (s.seq.toNat + 1) % 16384 ∧ Holds t.mem 0x40002 (enc16 (0xC000 + s.seq.toNat))) ∧
    (t.status.ok = false → t.seq = s.seq)

/-- R233: over any run with no reset, SEQ has advanced by the number of successful BUILDs, modulo 16384: no count is
skipped, and failed BUILDs change nothing. -/
def Obligations.SeqCountsBuilds : Prop :=
  ∀ (k : Nat) (s t : State), Event.reset ∉ s.script → Host.Core.run core k s = .next t →
    t.seq.toNat = (s.seq.toNat + buildsIn k s) % 16384

/-- The frame of BUILD (R145, R220): it writes OUT_BUF's first OUT_LEN bytes, OUT_LEN, SEQ, STATUS and IRQ_STATUS, and a
failed BUILD no byte. -/
def Obligations.BuildFrame : Prop :=
  ∀ s t : State, exec .build s = .next t →
    t = { s with
      mem := t.mem, outLen := t.outLen, seq := t.seq, status := t.status, irqStatus := t.irqStatus } ∧
    (t.status.ok = true →
      ∀ a, ¬ (BufId.out.base ≤ a ∧ a < BufId.out.base + t.outLen.toNat) →
        Memory.read t.mem a = Memory.read s.mem a) ∧
    (t.status.ok = false → ∀ a, Memory.read t.mem a = Memory.read s.mem a)

/-! ### PARSE -/

/-- R250, R251, R264, R267: PARSE of a packet of the wire format, at every value of every field, whatever its 32 trailer
bytes, succeeds and reports the fields; LOCK does not matter and neither does TRAIL_CHECK. -/
def Obligations.ParseReadsWireFormat : Prop :=
  ∀ (s : State) (apid : BitVec 11) (seq : BitVec 14) (ts : BitVec 64) (g c trailer : List Byte),
    trailer.length = 32 → g.length + c.length ≤ 65492 → s.inLen.toNat = g.length + c.length + 50 →
    Holds s.mem 0x60000 (wireUnsigned apid seq ts g c ++ trailer) →
    PassesUtf8 s.ctrl g → PassesUtf8 s.ctrl c →
    exec .parse s =
      .next { s with
        parsed := wireParsed apid seq ts g.length c.length s.inLen.toNat
        status := { Status.zero with done := true, ok := true }
        irqStatus := { s.irqStatus with done := true } }

/-- R263, R234: with TRAIL_CHECK = 1, re-serialising the fields of a Parsed Packet reproduces raw_without_signature
exactly. -/
def Obligations.ParsedPacketReserialises : Prop :=
  ∀ s t : State, exec .parse s = .next t → t.status.ok = true → s.ctrl.trailCheck = true →
    ∃ g c : List Byte,
      g.length = t.parsed.idLen.toNat ∧ c.length = t.parsed.cmdLen.toNat ∧
      Holds s.mem (0x60000 + t.parsed.idOff.toNat) g ∧ Holds s.mem (0x60000 + t.parsed.cmdOff.toNat) c ∧
      t.parsed.rawLen.toNat + 32 = s.inLen.toNat ∧
      (wireUnsigned t.parsed.apid t.parsed.seq (t.parsed.tsHi ++ t.parsed.tsLo) g c).length
        = t.parsed.rawLen.toNat ∧
      Holds s.mem 0x60000 (wireUnsigned t.parsed.apid t.parsed.seq (t.parsed.tsHi ++ t.parsed.tsLo) g c)

/-- R252: below 38 bytes PARSE completes with TOO_SHORT whatever IN_BUF holds, unwritten bytes included. -/
def Obligations.ShortInputIsTooShort : Prop :=
  ∀ s : State, s.inLen.toNat < 38 →
    exec .parse s =
      .next { s with
        parsed := ParsedRegs.zero
        status := { Status.zero with done := true, result := 0x01, cls := 1 }
        irqStatus := { s.irqStatus with done := true } }

/-- R253 to R255: from 38 bytes on the primary header decides: a bad version, type or secondary-header flag gives
BAD_HEADER, else sequence flags other than 3 give FRAGMENTED, else a length that differs gives LENGTH_MISMATCH; only the
bytes each step names need have been written. -/
def Obligations.PrimaryHeaderVerdicts : Prop :=
  ∀ (s : State) (b0 b1 b2 b3 b4 b5 : Byte), 38 ≤ s.inLen.toNat →
    (Holds s.mem 0x60000 [b0, b1] → ¬ (b0.extractLsb' 5 3 = 0 ∧ b0.getLsbD 4 = true ∧ b0.getLsbD 3 = true) →
      exec .parse s =
        .next { s with
          parsed := ParsedRegs.zero
          status := { Status.zero with done := true, result := 0x02, cls := 1 }
          irqStatus := { s.irqStatus with done := true } }) ∧
    (Holds s.mem 0x60000 [b0, b1, b2, b3] → (b0.extractLsb' 5 3 = 0 ∧ b0.getLsbD 4 = true ∧ b0.getLsbD 3 = true) →
      b2.extractLsb' 6 2 ≠ 3 →
      exec .parse s =
        .next { s with
          parsed := ParsedRegs.zero
          status := { Status.zero with done := true, result := 0x03, cls := 1 }
          irqStatus := { s.irqStatus with done := true } }) ∧
    (Holds s.mem 0x60000 [b0, b1, b2, b3, b4, b5] →
      (b0.extractLsb' 5 3 = 0 ∧ b0.getLsbD 4 = true ∧ b0.getLsbD 3 = true) → b2.extractLsb' 6 2 = 3 →
      256 * b4.toNat + b5.toNat + 7 ≠ s.inLen.toNat →
      exec .parse s =
        .next { s with
          parsed := ParsedRegs.zero
          status := { Status.zero with done := true, result := 0x04, cls := 1 }
          irqStatus := { s.irqStatus with done := true } })

/-- R256 to R261, R263: in a well-framed packet the span decides, step by step in their order, down to the trailing bytes
that TRAIL_CHECK = 1 rejects. -/
def Obligations.SpanVerdicts : Prop :=
  ∀ (s : State) (apid : BitVec 11) (seq : BitVec 14) (span trailer : List Byte), Framed s apid seq span trailer →
    let failsWith (code : BitVec 8) : Prop :=
      exec .parse s =
        .next { s with
          parsed := ParsedRegs.zero
          status := { Status.zero with done := true, result := code, cls := 1 }
          irqStatus := { s.irqStatus with done := true } }
    (span.length < 10 → failsWith 0x05) ∧
    (∀ (ts : BitVec 64) (lid : Nat) (rest : List Byte), lid < 65536 → span = enc64 ts.toNat ++ enc16 lid ++ rest →
      rest.length < lid → failsWith 0x06) ∧
    ∀ (ts : BitVec 64) (g rest : List Byte), g.length < 65536 →
      span = enc64 ts.toNat ++ enc16 g.length ++ g ++ rest →
      (¬ PassesUtf8 s.ctrl g → failsWith 0x07) ∧
      (PassesUtf8 s.ctrl g → rest.length < 2 → failsWith 0x08) ∧
      (∀ (lc : Nat) (more : List Byte), PassesUtf8 s.ctrl g → lc < 65536 → rest = enc16 lc ++ more →
        more.length < lc → failsWith 0x09) ∧
      ∀ c extra : List Byte, PassesUtf8 s.ctrl g → c.length < 65536 → rest = enc16 c.length ++ c ++ extra →
        (¬ PassesUtf8 s.ctrl c → failsWith 0x0A) ∧
        (PassesUtf8 s.ctrl c → s.ctrl.trailCheck = true → extra ≠ [] → failsWith 0x0B)

/-- R263: with TRAIL_CHECK = 0 a packet with bytes after its command string parses, and no field reports them. -/
def Obligations.TrailingBytesAllowedWhenUnchecked : Prop :=
  ∀ (s : State) (apid : BitVec 11) (seq : BitVec 14) (ts : BitVec 64) (g c extra trailer : List Byte),
    Framed s apid seq (enc64 ts.toNat ++ enc16 g.length ++ g ++ enc16 c.length ++ c ++ extra) trailer →
    g.length < 65536 → c.length < 65536 → s.ctrl.trailCheck = false → PassesUtf8 s.ctrl g → PassesUtf8 s.ctrl c →
    exec .parse s =
      .next { s with
        parsed := wireParsed apid seq ts g.length c.length s.inLen.toNat
        status := { Status.zero with done := true, ok := true }
        irqStatus := { s.irqStatus with done := true } }

/-- R266: past the buffer the first six bytes decide, between the three codes of steps 2 to 4, and no other byte is
asked for. -/
def Obligations.LengthPastBufferIsRejected : Prop :=
  ∀ (s : State) (b : List Byte), 65544 < s.inLen.toNat → b.length = 6 → Holds s.mem 0x60000 b →
    ∃ code : BitVec 8, (code = 0x02 ∨ code = 0x03 ∨ code = 0x04) ∧
      exec .parse s =
        .next { s with
          parsed := ParsedRegs.zero
          status := { Status.zero with done := true, result := code, cls := 1 }
          irqStatus := { s.irqStatus with done := true } }

/-- R60, R61, R265: after PARSE, P_VALID says whether it succeeded, and after a failure every P_* register is 0 and the
code is one of the eleven structural ones. -/
def Obligations.FailedParseLeavesNoFields : Prop :=
  ∀ s t : State, exec .parse s = .next t →
    t.parsed.valid = t.status.ok ∧
    (t.status.ok = false →
      t.parsed = ParsedRegs.zero ∧ 1 ≤ t.status.result.toNat ∧ t.status.result.toNat ≤ 11 ∧ t.status.cls = 1)

/-- R269, R267: ParseCore reads only IN_BUF bytes before the tag (six of them when N is past the buffer): two memories
that agree on those give one result. -/
def Obligations.ParseReadsOnlySpan : Prop :=
  ∀ (m m' : Memory) (n : Nat) (utf8Check trailCheck : Bool),
    (∀ k < (if n ≤ 65544 then n - 32 else 6), Memory.read m (0x60000 + k) = Memory.read m' (0x60000 + k)) →
    parseCore m n utf8Check trailCheck = parseCore m' n utf8Check trailCheck

/-- R262: a string is well-formed UTF-8 exactly when it is a concatenation of zero or more of the table's byte
sequences. -/
def Obligations.Utf8IsConcatenationOfRows : Prop :=
  ∀ s : List Byte,
    wellFormedUtf8 s = true ↔ ∃ seqs : List (List Byte), s = seqs.flatten ∧ ∀ q ∈ seqs, Utf8Sequence q

/-! ### INSPECT -/

/-- R74: with every LEN at most 256 (an invariant of the machine), allow-list membership is the existence of a valid
entry of the same length and the same bytes, and no identifier longer than 256 bytes is a member; a list with no valid
entry admits none. -/
def Obligations.AllowListMembership : Prop :=
  ∀ (s : State) (g : List Byte),
    ((∀ i : Fin 16, s.allowCtl[i].len.toNat ≤ 256) →
      (inAllowList s g = true ↔
        ∃ i : Fin 16, s.allowCtl[i].valid = true ∧ s.allowCtl[i].len.toNat = g.length ∧
          Holds s.mem (0x1000 + 0x100 * i.val) g) ∧
      (256 < g.length → inAllowList s g = false)) ∧
    ((∀ i : Fin 16, s.allowCtl[i].valid = false) → inAllowList s g = false)

/-- R290, R293 to R296: INSPECT of a packet that parses completes with the Parsed Packet attached and decides in the
spec's order: an ID not listed is NOT_AUTHORIZED whatever the tag, else a tag other than `MacFn(k, raw)` is AUTH_FAILED,
else the packet is accepted; k is the KEY_V_LEN bytes of KEY_V (R71, R200). -/
def Obligations.InspectDecides : Prop :=
  ∀ (s : State) (apid : BitVec 11) (seq : BitVec 14) (ts : BitVec 64) (k g c : List Byte) (trailer : Vector Byte 32),
    VerificationKey s k → s.ctrl.lock = true → g.length + c.length ≤ 65492 → s.inLen.toNat = g.length + c.length + 50 →
    Holds s.mem 0x60000 (wireUnsigned apid seq ts g c ++ trailer.toList) →
    PassesUtf8 s.ctrl g → PassesUtf8 s.ctrl c →
    let decided (status : Status) (irq : Irq) : Prop :=
      exec .inspect s =
        .next { s with
          resSrc := s.srcTag
          parsed := wireParsed apid seq ts g.length c.length s.inLen.toNat
          status := status
          irqStatus := irq }
    (inAllowList s g = false →
      decided { Status.zero with done := true, result := 0x10, cls := 2, event := 2, severity := 3 }
        { s.irqStatus with done := true, alert := true }) ∧
    (inAllowList s g = true → trailer ≠ Config.macFn k (wireUnsigned apid seq ts g c) →
      decided { Status.zero with done := true, result := 0x11, cls := 3, event := 3, severity := 3 }
        { s.irqStatus with done := true, alert := true }) ∧
    (inAllowList s g = true → trailer = Config.macFn k (wireUnsigned apid seq ts g c) →
      decided { Status.zero with done := true, ok := true, accept := true, event := 4, severity := 1 }
        { s.irqStatus with done := true })

/-- R292, R298: an INSPECT past its lock check parses exactly as PARSE does: where PARSE fails, INSPECT rejects with the
same code and no Parsed Packet, as DECODE_FAILURE at WARNING, with RES_SRC written. -/
def Obligations.InspectReportsDecodeFailure : Prop :=
  ∀ s t : State, s.ctrl.lock = true → exec .parse s = .next t → t.status.ok = false →
    exec .inspect s = .next { t with resSrc := s.srcTag, status := { t.status with event := 1, severity := 2 } }

/-- R36, R290, R295, R302: ACCEPT is set by INSPECT alone, and only for a packet that parses, whose ID is listed and whose
trailer is `MacFn(k, raw)`, with LOCK = 1, k being the KEY_V_LEN bytes of KEY_V. -/
def Obligations.AcceptedMeansListedAndAuthentic : Prop :=
  ∀ (i : Instr) (s t : State) (k : List Byte), VerificationKey s k → exec i s = .next t → t.status.accept = true →
    i = .inspect ∧ s.ctrl.lock = true ∧
    (∃ u, exec .parse s = .next u ∧ u.status.ok = true ∧ u.parsed = t.parsed) ∧
    ∃ g raw : List Byte,
      g.length = t.parsed.idLen.toNat ∧ Holds s.mem (0x60000 + 16) g ∧ inAllowList s g = true ∧
      raw.length + 32 = s.inLen.toNat ∧ Holds s.mem 0x60000 raw ∧
      Holds s.mem (0x60000 + raw.length) (Config.macFn k raw).toList

/-- R299: past its lock check INSPECT decides as a function of IN_LEN, the IN_BUF bytes it reads, the two CTRL switches,
the allow-list table and KeyV: two states that agree on those, and perhaps on nothing else (TIME, SRC_TAG, SEQ, earlier
results), get the same STATUS and the same P_* group, or both fault. -/
def Obligations.InspectIsPure : Prop :=
  ∀ s s' : State, s.ctrl.lock = true → s'.ctrl.lock = true → s'.ctrl.utf8Check = s.ctrl.utf8Check →
    s'.ctrl.trailCheck = s.ctrl.trailCheck → s'.inLen = s.inLen → s'.allowCtl = s.allowCtl →
    s'.keyVLen = s.keyVLen →
    (∀ k < (if s.inLen.toNat ≤ 65544 then s.inLen.toNat else 6),
      Memory.read s'.mem (0x60000 + k) = Memory.read s.mem (0x60000 + k)) →
    (∀ k < s.keyVLen.toNat, Memory.read s'.mem (0x500 + k) = Memory.read s.mem (0x500 + k)) →
    (∀ i : Fin 16, ∀ k < s.allowCtl[i].len.toNat,
      Memory.read s'.mem (0x1000 + 0x100 * i.val + k) = Memory.read s.mem (0x1000 + 0x100 * i.val + k)) →
    (∃ t t', exec .inspect s = .next t ∧ exec .inspect s' = .next t' ∧ t'.status = t.status ∧
      t'.parsed = t.parsed) ∨
    (exec .inspect s = .fault .unwrittenInput ∧ exec .inspect s' = .fault .unwrittenInput)

/-- R302. Change any of the trailing 32 bytes of an accepted packet and INSPECT ends with AUTH_FAILED and the same Parsed
Packet, for every MacFn. Flip one bit of raw_without_signature and INSPECT ends with a structural code, or with
NOT_AUTHORIZED, the ID it now reads being unlisted, or it reaches step 3: there it ends with AUTH_FAILED when the two tags
differ and accepts when they are one. So where MacFn satisfies the hypothesis R302 names (`OneBitDistinct`, which the model
does not assume), no such packet is accepted. -/
def Obligations.TamperedTagIsRejected : Prop :=
  (∀ (s t : State) (mem : Memory), exec .inspect s = .next t → t.status.accept = true →
    (∀ a, ¬ (0x60000 + (s.inLen.toNat - 32) ≤ a ∧ a < 0x60000 + s.inLen.toNat) →
      Memory.read mem a = Memory.read s.mem a) →
    Written mem (0x60000 + (s.inLen.toNat - 32)) 32 →
    (∃ k < 32, Memory.read mem (0x60000 + (s.inLen.toNat - 32) + k)
      ≠ Memory.read s.mem (0x60000 + (s.inLen.toNat - 32) + k)) →
    ∃ t', exec .inspect { s with mem := mem } = .next t' ∧ t'.status.result = 0x11 ∧ t'.status.cls = 3 ∧
      t'.status.accept = false ∧ t'.parsed = t.parsed) ∧
  ∀ (s t : State) (mem : Memory) (k raw raw' : List Byte), exec .inspect s = .next t → t.status.accept = true →
    VerificationKey s k → raw.length + 32 = s.inLen.toNat → Holds s.mem 0x60000 raw → Holds mem 0x60000 raw' →
    OneBitApart raw raw' →
    (∀ a, ¬ (0x60000 ≤ a ∧ a < 0x60000 + raw.length) → Memory.read mem a = Memory.read s.mem a) →
    ∃ t', exec .inspect { s with mem := mem } = .next t' ∧
      ((1 ≤ t'.status.result.toNat ∧ t'.status.result.toNat ≤ 11 ∧ t'.status.cls = 1 ∧ t'.status.accept = false) ∨
        (t'.status.result = 0x10 ∧ t'.status.cls = 2 ∧ t'.status.accept = false ∧
          ∃ g : List Byte, g.length = t'.parsed.idLen.toNat ∧ Holds mem (0x60000 + 16) g ∧
            inAllowList { s with mem := mem } g = false) ∨
        (t'.status.result = 0x11 ∧ t'.status.cls = 3 ∧ t'.status.accept = false ∧
          Config.macFn k raw' ≠ Config.macFn k raw) ∨
        (t'.status.result = 0x00 ∧ t'.status.accept = true ∧ Config.macFn k raw' = Config.macFn k raw)) ∧
      (OneBitDistinct Config.macFn k → t'.status.accept = false)

/-- R42, R43, R298: an idle write to SRC_TAG sets it; every INSPECT that passes its lock check copies SRC_TAG to RES_SRC,
whatever its outcome; no other operation writes RES_SRC. (`script` and `resp` are the model's own, logs 1 and 11.) -/
def Obligations.SourceTagReported : Prop :=
  (∀ (s : State) (rest : List Event) (w : Word), s.status.busy = false →
    step { s with script := .host (writeAt 0x028 w) :: rest } =
      .next { s with script := rest, resp := some (.writeDone false), srcTag := w }) ∧
  ∀ (i : Instr) (s t : State), exec i s = .next t →
    (i = .inspect → s.ctrl.lock = true → t.resSrc = s.srcTag) ∧
    (i = .inspect → s.ctrl.lock = false → t.resSrc = s.resSrc) ∧ (i ≠ .inspect → t.resSrc = s.resSrc)

/-- The frame of PARSE and INSPECT (R145): PARSE writes the P_* group, INSPECT that and RES_SRC; both write STATUS and
IRQ_STATUS and leave every other register and every byte of memory. -/
def Obligations.ParseInspectFrame : Prop :=
  (∀ s t : State, exec .parse s = .next t →
    t = { s with parsed := t.parsed, status := t.status, irqStatus := t.irqStatus } ∧
    ∀ a, Memory.read t.mem a = Memory.read s.mem a) ∧
  ∀ s t : State, exec .inspect s = .next t →
    t = { s with parsed := t.parsed, resSrc := t.resSrc, status := t.status, irqStatus := t.irqStatus } ∧
    ∀ a, Memory.read t.mem a = Memory.read s.mem a

/-! ### The codec and the firewall together -/

/-- R232: load the output of a successful BUILD into IN_BUF, set IN_LEN to OUT_LEN, and PARSE under the same UTF8_CHECK
reports the inputs, with any TRAIL_CHECK; and its trailer verifies under the signing key. -/
def Obligations.BuiltPacketParses : Prop :=
  ∀ (s t u : State) (k g c : List Byte), SigningKey s k → exec .build s = .next t → t.status.ok = true →
    g.length = s.gsidLen.toNat → c.length = s.cmdstrLen.toNat → Holds s.mem 0x10000 g → Holds s.mem 0x20000 c →
    (∀ a < t.outLen.toNat, Memory.read u.mem (0x60000 + a) = Memory.read t.mem (0x40000 + a)) →
    u.inLen.toNat = t.outLen.toNat → u.ctrl.utf8Check = s.ctrl.utf8Check →
    ∃ v, exec .parse u = .next v ∧ v.status.ok = true ∧ v.parsed.valid = true ∧ v.parsed.apid = s.apid ∧
      v.parsed.seq = s.seq ∧ v.parsed.tsHi ++ v.parsed.tsLo = s.tsLatch ∧
      v.parsed.idLen.toNat = g.length ∧ Holds u.mem (0x60000 + 16) g ∧
      v.parsed.cmdLen.toNat = c.length ∧ Holds u.mem (0x60000 + 18 + g.length) c ∧
      v.parsed.rawLen.toNat = t.outLen.toNat - 32 ∧
      ∃ raw tag : List Byte, raw.length = v.parsed.rawLen.toNat ∧ tag.length = 32 ∧ Holds u.mem 0x60000 raw ∧
        Holds u.mem (0x60000 + v.parsed.sigOff.toNat) tag ∧ verify raw tag k = true

/-- R232, R300, R301: INSPECT of a built packet: with its ID not listed, NOT_AUTHORIZED even though the signature is valid;
with its ID listed, AUTH_FAILED exactly when the two keys give two tags, and else accepted. -/
def Obligations.BuiltPacketInspected : Prop :=
  ∀ (s t u : State) (k1 k2 g c : List Byte), SigningKey s k1 → VerificationKey u k2 → exec .build s = .next t →
    t.status.ok = true →
    g.length = s.gsidLen.toNat → c.length = s.cmdstrLen.toNat → Holds s.mem 0x10000 g → Holds s.mem 0x20000 c →
    (∀ a < t.outLen.toNat, Memory.read u.mem (0x60000 + a) = Memory.read t.mem (0x40000 + a)) →
    u.inLen.toNat = t.outLen.toNat → u.ctrl.utf8Check = s.ctrl.utf8Check → u.ctrl.lock = true →
    let raw := wireUnsigned s.apid s.seq s.tsLatch g c
    ∃ v, exec .inspect u = .next v ∧ v.parsed.valid = true ∧
      (inAllowList u g = false → v.status.result = 0x10 ∧ v.status.accept = false) ∧
      (inAllowList u g = true →
        (v.status.result = 0x11 ↔ Config.macFn k2 raw ≠ Config.macFn k1 raw) ∧
        (v.status.accept = true ↔ Config.macFn k2 raw = Config.macFn k1 raw))

/-! ### Interrupts and the clock -/

/-- R37, R38, R116, R328, R329: the irq line is the OR of the enabled set bits; a write to IRQ_STATUS clears exactly the
bits written 1, one to IRQ_ENABLE sets the enables, and both are honoured whether or not an operation is in flight. -/
def Obligations.InterruptRegisters : Prop :=
  (∀ s : State, irqLine s = true ↔ ∃ i < 4, s.irqStatus.word.getLsbD i = true ∧ s.irqEnable.word.getLsbD i = true) ∧
  (∀ (s : State) (rest : List Event) (w : Word), ∃ irq : Irq,
    step { s with script := .host (writeAt 0x010 w) :: rest } =
      .next { s with script := rest, resp := some (.writeDone false), irqStatus := irq } ∧
    ∀ i < 4, irq.word.getLsbD i = (s.irqStatus.word.getLsbD i && !w.getLsbD i)) ∧
  ∀ (s : State) (rest : List Event) (w : Word), ∃ irq : Irq,
    step { s with script := .host (writeAt 0x014 w) :: rest } =
      .next { s with script := rest, resp := some (.writeDone false), irqEnable := irq } ∧
    ∀ i < 4, irq.word.getLsbD i = w.getLsbD i

/-- R340, R343: a TICK advances TIME by one modulo 2^64 while TIME_RUN = 1 and does nothing otherwise, whatever
STATUS.BUSY is. -/
def Obligations.TickAdvancesTime : Prop :=
  ∀ (s : State) (rest : List Event), ∃ time : BitVec 64,
    step { s with script := .tick :: rest } = .next { s with script := rest, time := time } ∧
    (s.ctrl.timeRun = true → time.toNat = (s.time.toNat + 1) % 2 ^ 64) ∧ (s.ctrl.timeRun = false → time = s.time)

/-- R341: reads of TIME_LO and then TIME_HI give the two halves of TIME as it was at the TIME_LO read, however many ticks
fall between them. -/
def Obligations.TimeReadPairIsConsistent : Prop :=
  ∀ (s : State) (n : Nat), ∃ t u : State,
    Host.Core.run core 1
      { s with
        script := .host (readAt 0x020) :: (List.replicate n .tick ++ [.host (readAt 0x024)]) } = .next t ∧
    t.resp = some (.readDone false (s.time.extractLsb' 0 32)) ∧
    Host.Core.run core (n + 1) t = .next u ∧ u.resp = some (.readDone false (s.time.extractLsb' 32 32))

/-- R342: while idle, writes of TIME_LO and then TIME_HI set all 64 bits of TIME at once, however many ticks fall between
them, and the TIME_LO write alone leaves TIME. -/
def Obligations.TimeWritePairCommits : Prop :=
  ∀ (s : State) (n : Nat) (lo hi : Word), s.status.busy = false → ∃ t u : State,
    Host.Core.run core 1
      { s with
        script := .host (writeAt 0x020 lo) :: (List.replicate n .tick ++ [.host (writeAt 0x024 hi)]) } = .next t ∧
    t.time = s.time ∧
    Host.Core.run core (n + 1) t = .next u ∧ u.time.toNat = hi.toNat * 2 ^ 32 + lo.toNat

/-! ### The bus -/

/-- R105: a misaligned, narrow or partial-strobe transfer completes with ERROR and has no effect on any state; an ERROR
read returns 0. (The response is the model's own record, log 11.) -/
def Obligations.MalformedTransfersDoNothing : Prop :=
  ∀ (s : State) (rest : List Event) (off : Nat) (width : Width) (strobes : BitVec 4) (w : Word), off < 0x80000 →
    ((off % 4 ≠ 0 ∨ width ≠ .word) →
      step { s with script := .host (.read off width) :: rest } =
        .next { s with script := rest, resp := some (.readDone true 0) }) ∧
    ((off % 4 ≠ 0 ∨ width ≠ .word ∨ strobes ≠ 0xF) →
      step { s with script := .host (.write off width strobes w) :: rest } =
        .next { s with script := rest, resp := some (.writeDone true) })

/-- R116: while BUSY = 1 every write but those to IRQ_STATUS and IRQ_ENABLE is dropped: it completes OK and sets WR_ERR,
nothing else. That reserved and read-only offsets are among them is the model's reading of R116 against R53 and R327
(DEDUCED, log 8). So over any turns of the HOST and TICK everything an operation reads at its completion is as it was. -/
def Obligations.BusyInterlock : Prop :=
  (∀ (s : State) (rest : List Event) (off : Nat) (w : Word), s.status.busy = true → off < 0x80000 → off % 4 = 0 →
    off ≠ 0x010 → off ≠ 0x014 →
    step { s with script := .host (writeAt off w) :: rest } =
      .next { s with
        script := rest
        resp := some (.writeDone false)
        irqStatus := { s.irqStatus with wrErr := true } }) ∧
  ∀ (s : State) (k : Nat), s.status.busy = true → k ≤ s.script.length →
    (∀ e ∈ s.script, e ≠ .engine ∧ e ≠ .reset) →
    ∃ t, Host.Core.run core k s = .next t ∧ BusyFrame s t

/-- R54, R34, R39, R330: while LOCK = 1 an idle write to the lock-frozen set is dropped and sets WR_ERR, and a write to
CTRL takes TIME_RUN alone, with no flag; while LOCK = 0 a write to CTRL takes all four fields, LOCK among them, and one to
APID is taken. -/
def Obligations.LockedWritesDropped : Prop :=
  ∀ (s : State) (rest : List Event) (w : Word), s.status.busy = false →
    (s.ctrl.lock = true →
      (∀ off : Nat, off % 4 = 0 → inFrozenSet off = true →
        step { s with script := .host (writeAt off w) :: rest } =
          .next { s with
            script := rest
            resp := some (.writeDone false)
            irqStatus := { s.irqStatus with wrErr := true } }) ∧
      step { s with script := .host (writeAt 0x004 w) :: rest } =
        .next { s with
          script := rest
          resp := some (.writeDone false)
          ctrl := { s.ctrl with timeRun := w.getLsbD 3 } }) ∧
    (s.ctrl.lock = false →
      step { s with script := .host (writeAt 0x004 w) :: rest } =
        .next { s with
          script := rest
          resp := some (.writeDone false)
          ctrl := { lock := w.getLsbD 0, utf8Check := w.getLsbD 1, trailCheck := w.getLsbD 2, timeRun := w.getLsbD 3 } } ∧
      step { s with script := .host (writeAt 0x018 w) :: rest } =
        .next { s with script := rest, resp := some (.writeDone false), apid := w.extractLsb' 0 11 })

/-- R49, R50, R52: in the configuration phase a key or allow-list length above 256 is dropped with WR_ERR, and one up to
256 is taken, the reserved bits ignored. R44, R45, R47, R48: GSID_LEN, CMDSTR_LEN, IN_LEN and TAG_LEN take any value of
their field, in both phases. -/
def Obligations.LengthWritesChecked : Prop :=
  (∀ (s : State) (rest : List Event) (w : Word), s.ctrl.lock = false → s.status.busy = false →
    (256 < w.toNat % 512 → ∀ off : Nat, (off = 0x044 ∨ off = 0x048 ∨ (0x100 ≤ off ∧ off < 0x140 ∧ off % 4 = 0)) →
      step { s with script := .host (writeAt off w) :: rest } =
        .next { s with
          script := rest
          resp := some (.writeDone false)
          irqStatus := { s.irqStatus with wrErr := true } }) ∧
    (w.toNat % 512 ≤ 256 →
      step { s with script := .host (writeAt 0x044 w) :: rest } =
        .next { s with
          script := rest, resp := some (.writeDone false), keySLen := BitVec.ofNat 9 (w.toNat % 512) } ∧
      step { s with script := .host (writeAt 0x048 w) :: rest } =
        .next { s with
          script := rest, resp := some (.writeDone false), keyVLen := BitVec.ofNat 9 (w.toNat % 512) } ∧
      ∀ i : Fin 16,
        step { s with script := .host (writeAt (0x100 + 4 * i.val) w) :: rest } =
          .next { s with
            script := rest
            resp := some (.writeDone false)
            allowCtl := s.allowCtl.set i { valid := w.getLsbD 31, len := BitVec.ofNat 9 (w.toNat % 512) } })) ∧
  ∀ (s : State) (rest : List Event) (w : Word), s.status.busy = false →
    step { s with script := .host (writeAt 0x030 w) :: rest } =
      .next { s with
        script := rest, resp := some (.writeDone false), gsidLen := BitVec.ofNat 16 (w.toNat % 65536) } ∧
    step { s with script := .host (writeAt 0x034 w) :: rest } =
      .next { s with
        script := rest, resp := some (.writeDone false), cmdstrLen := BitVec.ofNat 16 (w.toNat % 65536) } ∧
    step { s with script := .host (writeAt 0x03C w) :: rest } =
      .next { s with script := rest, resp := some (.writeDone false), inLen := w } ∧
    step { s with script := .host (writeAt 0x040 w) :: rest } =
      .next { s with script := rest, resp := some (.writeDone false), tagLen := BitVec.ofNat 8 (w.toNat % 256) }

/-- R53, R106 to R108, R33, R35, R72: an idle write to a read-only register, to OUT_BUF's window, to a reserved offset or
to the tail of IN_BUF's window is ignored with no flag; OP, the key windows and reserved space read 0; ID reads its
constant. -/
def Obligations.ReservedSpaceIsInert : Prop :=
  (∀ (s : State) (rest : List Event) (off : Nat) (w : Word), s.status.busy = false → off % 4 = 0 →
    inIgnoredSet off = true →
    step { s with script := .host (writeAt off w) :: rest } =
      .next { s with script := rest, resp := some (.writeDone false) }) ∧
  (∀ (s : State) (rest : List Event) (off : Nat), off % 4 = 0 → inZeroSet off = true →
    step { s with script := .host (readAt off) :: rest } =
      .next { s with script := rest, resp := some (.readDone false 0) }) ∧
  ∀ (s : State) (rest : List Event),
    step { s with script := .host (readAt 0x000) :: rest } =
      .next { s with script := rest, resp := some (.readDone false 0x50434601) }

/-- R104, R70, R71, R73, R51: a word written while idle to a writable buffer window (to KEY_S, KEY_V or ALLOW_DATA in the
configuration phase, memory being in its canonical form, an invariant of the machine) lands byte 4k+i from bits [8i+7:8i],
no other byte changes, and outside the key windows, which read 0, a read of the same offset then returns it. A word written
to a register of the TAG bank is that register, whose lanes are the bytes of the tag. -/
def Obligations.WindowLaneOrder : Prop :=
  (∀ (s : State) (rest : List Event) (off : Nat) (w : Word), s.status.busy = false → off % 4 = 0 →
    ((0x10000 ≤ off ∧ off < 0x30000) ∨ (0x60000 ≤ off ∧ off < 0x60000 + 65544) ∨
      ((0x400 ≤ off ∧ off < 0x600 ∨ 0x1000 ≤ off ∧ off < 0x2000) ∧ s.ctrl.lock = false ∧ Memory.wf s.mem)) →
    ∃ mem : Memory,
      step { s with script := .host (writeAt off w) :: rest } =
        .next { s with script := rest, resp := some (.writeDone false), mem := mem } ∧
      (∀ i < 4, Memory.read mem (off + i) = some (w.extractLsb' (8 * i) 8)) ∧
      (∀ a, ¬ (off ≤ a ∧ a < off + 4) → Memory.read mem a = Memory.read s.mem a) ∧
      (0x1000 ≤ off →
        step { s with mem := mem, script := .host (readAt off) :: rest } =
          .next { s with mem := mem, script := rest, resp := some (.readDone false w) })) ∧
  ∀ (s : State) (rest : List Event) (i : Fin 8) (w : Word), s.status.busy = false →
    step { s with script := .host (writeAt (0x080 + 4 * i.val) w) :: rest } =
      .next { s with script := rest, resp := some (.writeDone false), tag := s.tag.set i w }

/-- R33, R109, R112, R117: a read is never blocked, changes no register but TIME_RHI (on TIME_LO), and no byte; a register
reads the word R33 to R69 give it (`registerWords`, the TAG and ALLOW_CTL banks beside it), and in a buffer word the lanes
of written bytes read their value. (`resp` and `draws` are the model's own fields, logs 6 and 11.) -/
def Obligations.ReadsHaveNoSideEffect : Prop :=
  ∀ (s : State) (rest : List Event) (off : Nat), off < 0x80000 → off % 4 = 0 → ∃ (w : Word) (draws : Nat),
    step { s with script := .host (readAt off) :: rest } =
      .next { s with
        script := rest
        resp := some (.readDone false w)
        draws := draws
        timeRhi := if off = 0x020 then s.time.extractLsb' 32 32 else s.timeRhi } ∧
    (∀ v : Word, (off, v) ∈ registerWords s → w = v) ∧
    (∀ i : Fin 8, off = 0x080 + 4 * i.val → w = s.tag[i]) ∧
    (∀ i : Fin 16, off = 0x100 + 4 * i.val →
      w.getLsbD 31 = s.allowCtl[i].valid ∧ w.extractLsb' 9 22 = 0 ∧ w.extractLsb' 0 9 = s.allowCtl[i].len) ∧
    ((isBuffer off = true ∨ 0x1000 ≤ off ∧ off < 0x2000) →
      ∀ i < 4, ∀ b : Byte, Memory.read s.mem (off + i) = some b → w.extractLsb' (8 * i) 8 = b)

/-- R72: no bus read depends on the key stores: two states that differ only in bytes of the KEY_S and KEY_V stores give
the same response to every read, and stay apart only there. -/
def Obligations.KeysAreNeverReadable : Prop :=
  ∀ (s : State) (mem : Memory) (rest : List Event) (off : Nat) (width : Width),
    (∀ a, ¬ (0x400 ≤ a ∧ a < 0x600) → Memory.read mem a = Memory.read s.mem a) →
    ∃ t : State,
      step { s with script := .host (.read off width) :: rest } = .next t ∧ t.mem = s.mem ∧
      step { s with mem := mem, script := .host (.read off width) :: rest } = .next { t with mem := mem }

/-! ### Whole-machine rules -/

/-- R330, R54, R34: nothing but reset leaves the operational phase, and while it lasts the lock-frozen configuration is
fixed: over every run with no reset, whatever the agents do. -/
def Obligations.LockedConfigurationIsFixed : Prop :=
  ∀ (k : Nat) (s t : State), s.ctrl.lock = true → Event.reset ∉ s.script → Host.Core.run core k s = .next t →
    SameConfig s t

/-- R360, R361, R85: the RESET step puts every piece of state at its reset value, whatever was in flight. (The turns
still to come and the draws counter are the model's own, log 1 and log 6.) -/
def Obligations.ResetStateValues : Prop :=
  ∀ (s : State) (rest : List Event), ∃ t : State,
    step { s with script := .reset :: rest } = .next t ∧ t.script = rest ∧
    t.ctrl = { lock := false, utf8Check := true, trailCheck := true, timeRun := false } ∧ t.ctrl.word = 0x00000006 ∧
    t.status.word = 0 ∧ t.irqStatus.word = 0 ∧ t.irqEnable.word = 0 ∧ irqLine t = false ∧
    t.apid = 0 ∧ t.seq = 0 ∧ t.time = 0 ∧ t.timeWlo = 0 ∧ t.timeRhi = 0 ∧ t.srcTag = 0 ∧ t.resSrc = 0 ∧
    t.gsidLen = 0 ∧ t.cmdstrLen = 0 ∧ t.outLen = 0 ∧ t.inLen = 0 ∧ t.tagLen = 0 ∧ t.keySLen = 0 ∧ t.keyVLen = 0 ∧
    t.parsed.valid = false ∧ t.parsed = ParsedRegs.zero ∧ (∀ i : Fin 8, t.tag[i] = 0) ∧
    (∀ i : Fin 16, t.allowCtl[i].word = 0) ∧ t.opl = 0 ∧ t.tsLatch = 0 ∧
    (∀ a, isStore a = true → Memory.read t.mem a = some 0) ∧ ∀ a, isBuffer a = true → Memory.read t.mem a = none

/-- The invariant holds in the reset state. -/
def Obligations.ResetSatisfiesInvariant : Prop := Inv State.reset

/-- Every step keeps the invariant, from every state that has it. -/
def Obligations.StepKeepsInvariant : Prop := ∀ s t : State, Inv s → step s = .next t → Inv t

/-- R375 in the model's schedule (log 14): an operation in flight whose inputs were written completes once the listed
turns are over, at the latest in the step after them, unless a reset comes first. -/
def Obligations.OperationInFlightCompletes : Prop :=
  ∀ (s : State) (i : Instr), s.status.busy = true → fetch s = some i → InputsWritten i s → Event.reset ∉ s.script →
    ∃ (k : Nat) (t : State), k ≤ s.script.length + 1 ∧ Host.Core.run core k s = .next t ∧ t.status.busy = false ∧
      t.status.done = true
end

