-- ==== Sys2Proof/Laws/Bytes.lean ====
section
/-! SUPPORT. The laws of byte strings: lengths and round trips of the big-endian integers, and the lanes of a word. -/

namespace Sys2Proof
namespace Machine

@[simp] theorem encBE_length (n v : Nat) : (encBE n v).length = n := by
  induction n with
  | zero => rfl
  | succ n ih => simp [encBE, ih]

@[simp] theorem enc16_length (v : Nat) : (enc16 v).length = 2 := encBE_length 2 v

@[simp] theorem enc64_length (v : Nat) : (enc64 v).length = 8 := encBE_length 8 v

/-- `beNat` of a string started from an accumulator. -/
theorem foldl_be (s : List Byte) (acc : Nat) :
    s.foldl (fun x b => x * 256 + b.toNat) acc = acc * 256 ^ s.length + beNat s := by
  induction s generalizing acc with
  | nil => simp [beNat]
  | cons b s ih =>
    simp only [List.foldl_cons, List.length_cons, beNat]
    rw [ih, ih (0 * 256 + b.toNat)]
    ring

theorem beNat_cons (b : Byte) (s : List Byte) : beNat (b :: s) = b.toNat * 256 ^ s.length + beNat s := by
  rw [beNat, List.foldl_cons, foldl_be]
  simp

/-- A big-endian number fits its width. -/
theorem beNat_lt (s : List Byte) : beNat s < 256 ^ s.length := by
  induction s with
  | nil => simp [beNat]
  | cons b s ih =>
    rw [beNat_cons, List.length_cons, Nat.pow_succ]
    have hb : b.toNat < 256 := b.isLt
    have : b.toNat * 256 ^ s.length ≤ 255 * 256 ^ s.length := Nat.mul_le_mul_right _ (by omega)
    omega

/-- Reading back an encoded number (R11). -/
theorem beNat_encBE (n v : Nat) : beNat (encBE n v) = v % 256 ^ n := by
  induction n with
  | zero => simp [encBE, beNat, Nat.mod_one]
  | succ n ih =>
    rw [encBE, beNat_cons, ih, encBE_length, BitVec.toNat_ofNat, show 2 ^ 8 = 256 from rfl, Nat.pow_succ,
      Nat.mod_mul (x := v) (a := 256 ^ n), Nat.mul_comm, Nat.add_comm]

/-- Encoding what was read gives the string back (R11). -/
theorem encBE_beNat (s : List Byte) : encBE s.length (beNat s) = s := by
  have key : ∀ (s : List Byte) (q : Nat), encBE s.length (q * 256 ^ s.length + beNat s) = s := by
    intro s
    induction s with
    | nil => intro q; rfl
    | cons b s ih =>
      intro q
      have hpos : 0 < 256 ^ s.length := Nat.pow_pos (by decide)
      have hlt := beNat_lt s
      have e : q * 256 ^ (s.length + 1) + beNat (b :: s) = (q * 256 + b.toNat) * 256 ^ s.length + beNat s := by
        rw [beNat_cons]
        ring
      rw [List.length_cons, encBE, e, ih (q * 256 + b.toNat)]
      congr 1
      rw [Nat.add_comm, Nat.add_mul_div_right _ _ hpos, Nat.div_eq_of_lt hlt]
      apply BitVec.eq_of_toNat_eq
      have hb : b.toNat < 256 := b.isLt
      simp only [BitVec.toNat_ofNat]
      omega
  simpa using key s 0

/-- `be16(enc16(v)) = v` for v below 2^16 (R11). -/
theorem be16_enc16 {v : Nat} (h : v < 65536) : (be16 (enc16 v)).toNat = v := by
  simp only [be16, enc16, beNat_encBE, BitVec.toNat_ofNat]
  omega

/-- `be64(enc64(v)) = v` (R11). -/
theorem be64_enc64 (v : BitVec 64) : be64 (enc64 v.toNat) = v := by
  apply BitVec.eq_of_toNat_eq
  have := v.isLt
  simp only [be64, enc64, beNat_encBE, BitVec.toNat_ofNat]
  omega

/-- `enc16(be16(s)) = s` for a 2-byte s (R11). -/
theorem enc16_be16 {s : List Byte} (h : s.length = 2) : enc16 (be16 s).toNat = s := by
  have hlt := beNat_lt s
  have hn : (be16 s).toNat = beNat s := by
    rw [h] at hlt
    simp only [be16, BitVec.toNat_ofNat]
    omega
  rw [enc16, hn]
  simpa [h] using encBE_beNat s

/-- `enc64(be64(s)) = s` for an 8-byte s (R11). -/
theorem enc64_be64 {s : List Byte} (h : s.length = 8) : enc64 (be64 s).toNat = s := by
  have hlt := beNat_lt s
  have hn : (be64 s).toNat = beNat s := by
    rw [h] at hlt
    simp only [be64, BitVec.toNat_ofNat]
    omega
  rw [enc64, hn]
  simpa [h] using encBE_beNat s

/-! ### Lanes -/

@[simp] theorem lane_laneWord_0 (b0 b1 b2 b3 : Byte) : lane (laneWord b0 b1 b2 b3) 0 = b0 := by
  ext i hi
  simp only [lane, laneWord, BitVec.getElem_extractLsb', BitVec.getLsbD_append]
  grind

@[simp] theorem lane_laneWord_1 (b0 b1 b2 b3 : Byte) : lane (laneWord b0 b1 b2 b3) 1 = b1 := by
  ext i hi
  simp only [lane, laneWord, BitVec.getElem_extractLsb', BitVec.getLsbD_append]
  grind

@[simp] theorem lane_laneWord_2 (b0 b1 b2 b3 : Byte) : lane (laneWord b0 b1 b2 b3) 2 = b2 := by
  ext i hi
  simp only [lane, laneWord, BitVec.getElem_extractLsb', BitVec.getLsbD_append]
  grind

@[simp] theorem lane_laneWord_3 (b0 b1 b2 b3 : Byte) : lane (laneWord b0 b1 b2 b3) 3 = b3 := by
  ext i hi
  simp only [lane, laneWord, BitVec.getElem_extractLsb', BitVec.getLsbD_append]
  grind

/-- A word is made of its lanes (R104). -/
theorem laneWord_lanes (w : Word) : laneWord (lane w 0) (lane w 1) (lane w 2) (lane w 3) = w := by
  ext i hi
  simp only [lane, laneWord]
  grind

@[simp] theorem laneBytes_length (w : Word) : (laneBytes w).length = 4 := rfl

end Machine
end Sys2Proof
end

