-- ==== Sys2Proof/Laws/Config.lean ====
section
/-! SUPPORT. The parameters of R6 as numerals, for arithmetic, and the places of storage as plain inequalities. -/

namespace Sys2Proof

@[simp] theorem Config.digestLen_eq : Config.digestLen = 32 := rfl
@[simp] theorem Config.hdrLen_eq : Config.hdrLen = 6 := rfl
@[simp] theorem Config.secFixed_eq : Config.secFixed = 10 := rfl
@[simp] theorem Config.seqMod_eq : Config.seqMod = 16384 := rfl
@[simp] theorem Config.parseMin_eq : Config.parseMin = 38 := rfl
@[simp] theorem Config.pktMin_eq : Config.pktMin = 50 := rfl
@[simp] theorem Config.pktMax_eq : Config.pktMax = 65542 := rfl
@[simp] theorem Config.bodyMax_eq : Config.bodyMax = 65492 := rfl
@[simp] theorem Config.keyMax_eq : Config.keyMax = 256 := rfl
@[simp] theorem Config.allowMax_eq : Config.allowMax = 256 := rfl
@[simp] theorem Config.gsidCap_eq : Config.gsidCap = 65536 := rfl
@[simp] theorem Config.cmdstrCap_eq : Config.cmdstrCap = 65536 := rfl
@[simp] theorem Config.outCap_eq : Config.outCap = 65544 := rfl
@[simp] theorem Config.inCap_eq : Config.inCap = 65544 := rfl
@[simp] theorem Config.apertureLen_eq : Config.apertureLen = 0x80000 := rfl

namespace Machine

@[simp] theorem base_gsid : BufId.gsid.base = 0x10000 := rfl
@[simp] theorem base_cmdstr : BufId.cmdstr.base = 0x20000 := rfl
@[simp] theorem base_out : BufId.out.base = 0x40000 := rfl
@[simp] theorem base_inb : BufId.inb.base = 0x60000 := rfl
@[simp] theorem cap_gsid : BufId.gsid.cap = 65536 := rfl
@[simp] theorem cap_cmdstr : BufId.cmdstr.cap = 65536 := rfl
@[simp] theorem cap_out : BufId.out.cap = 65544 := rfl
@[simp] theorem cap_inb : BufId.inb.cap = 65544 := rfl
@[simp] theorem keySBase_eq : keySBase = 0x400 := rfl
@[simp] theorem keyVBase_eq : keyVBase = 0x500 := rfl

/-- A buffer's bytes are those from its base up to its capacity. -/
theorem has_iff (b : BufId) (a : Nat) : b.has a = true ↔ b.base ≤ a ∧ a < b.base + b.cap := by simp [BufId.has]

/-- The four buffers, as ranges of offsets (R101). -/
theorem isBuffer_iff (a : Nat) :
    isBuffer a = true ↔ (0x10000 ≤ a ∧ a < 0x30000 ∨ 0x40000 ≤ a ∧ a < 0x40000 + 65544 ∨
      0x60000 ≤ a ∧ a < 0x60000 + 65544) := by
  simp only [isBuffer, Bool.or_eq_true, has_iff, base_gsid, base_cmdstr, base_out, base_inb, cap_gsid, cap_cmdstr,
    cap_out, cap_inb]
  omega

/-- The stores, as ranges of offsets (R70, R71, R73). -/
theorem isStore_iff (a : Nat) : isStore a = true ↔ (0x400 ≤ a ∧ a < 0x600 ∨ 0x1000 ≤ a ∧ a < 0x2000) := by
  simp [isStore]

end Machine
end Sys2Proof
end

