-- ==== Sys2Proof/Laws/Memory.lean ====
section
/-! SUPPORT. The laws of memory: what a read gives after a write, that every memory operation keeps the canonical form,
and how byte strings are read and written. -/

namespace Sys2Proof
namespace Machine

/-! ### Where storage is -/

/-- `a` is a byte the PCFE stores: of a key store, of an allow-list store or of a buffer. -/
def isStorage (a : Nat) : Bool := isStore a || isBuffer a

theorem unlisted_store {a : Nat} (h : isStore a = true) : unlisted a = some 0 := by simp [unlisted, h]

theorem not_store_of_buffer {a : Nat} (h : isBuffer a = true) : isStore a = false := by
  rw [isBuffer_iff] at h
  rw [← Bool.not_eq_true, isStore_iff]
  omega

theorem unlisted_buffer {a : Nat} (h : isBuffer a = true) : unlisted a = none := by
  simp [unlisted, not_store_of_buffer h]

/-- Every byte of a buffer's window below its capacity is a buffer byte. -/
theorem isBuffer_of_lt (b : BufId) {k : Nat} (h : k < b.cap) : isBuffer (b.base + k) = true := by
  rw [isBuffer_iff]
  cases b <;> simp at h ⊢ <;> omega

/-! ### Lookup -/

theorem lookup_insert_same (m : Memory) (a : Nat) (b : Byte) : Memory.lookup (Memory.insert m a b) a = some b := by
  induction m with
  | nil => simp [Memory.insert, Memory.lookup]
  | cons c m ih =>
    simp only [Memory.insert]
    split
    · simp [Memory.lookup]
    · split
      · simp [Memory.lookup]
      · next hne => simp [Memory.lookup, Ne.symm hne, ih]

theorem lookup_insert_other (m : Memory) {a x : Nat} (b : Byte) (h : x ≠ a) :
    Memory.lookup (Memory.insert m a b) x = Memory.lookup m x := by
  induction m with
  | nil => simp [Memory.insert, Memory.lookup, Ne.symm h]
  | cons c m ih =>
    simp only [Memory.insert]
    split
    · simp [Memory.lookup, Ne.symm h]
    · split
      · next heq => simp [Memory.lookup, ← heq, Ne.symm h]
      · simp [Memory.lookup, ih]

theorem lookup_erase_other (m : Memory) {a x : Nat} (h : x ≠ a) :
    Memory.lookup (Memory.erase m a) x = Memory.lookup m x := by
  induction m with
  | nil => rfl
  | cons c m ih =>
    simp only [Memory.erase]
    split
    · next heq => simp [Memory.lookup, heq, Ne.symm h]
    · simp [Memory.lookup, ih]

theorem lookup_none_of_lt (m : Memory) {a : Nat} (h : ∀ c ∈ m, a < c.1) : Memory.lookup m a = none := by
  induction m with
  | nil => rfl
  | cons c m ih =>
    have hc := h c (by simp)
    simp only [Memory.lookup]
    rw [if_neg (by omega)]
    exact ih (fun d hd => h d (by simp [hd]))

theorem lookup_erase_same {m : Memory} (hm : m.Pairwise (fun x y => x.1 < y.1)) (a : Nat) :
    Memory.lookup (Memory.erase m a) a = none := by
  induction m with
  | nil => rfl
  | cons c m ih =>
    rw [List.pairwise_cons] at hm
    simp only [Memory.erase]
    split
    · next heq => exact lookup_none_of_lt m (fun d hd => heq ▸ hm.1 d hd)
    · next hne => simp [Memory.lookup, hne, ih hm.2]

/-! ### Read after write -/

/-- A read of another address does not see a write. -/
theorem read_write_other (m : Memory) {a x : Nat} (b : Byte) (h : x ≠ a) :
    Memory.read (Memory.write m a b) x = Memory.read m x := by
  unfold Memory.write
  split
  · simp [Memory.read, lookup_erase_other m h]
  · simp [Memory.read, lookup_insert_other m b h]

/-- A buffer byte reads what was written to it, in any memory. -/
theorem read_write_buffer (m : Memory) {a : Nat} (b : Byte) (h : isBuffer a = true) :
    Memory.read (Memory.write m a b) a = some b := by
  simp [Memory.write, unlisted_buffer h, Memory.read, lookup_insert_same]

/-- A byte reads what was written to it, in a memory of rising addresses. -/
theorem read_write_same {m : Memory} (hm : m.Pairwise (fun x y => x.1 < y.1)) (a : Nat) (b : Byte) :
    Memory.read (Memory.write m a b) a = some b := by
  unfold Memory.write
  split
  · next h => simp [Memory.read, lookup_erase_same hm, h]
  · simp [Memory.read, lookup_insert_same]

/-- A byte of the key and allow-list stores always has a value. -/
theorem read_store_isSome (m : Memory) {a : Nat} (h : isStore a = true) : (Memory.read m a).isSome = true := by
  unfold Memory.read
  split
  · rfl
  · simp [unlisted_store h]

/-- A write never takes a value away from a buffer byte. -/
theorem written_write (m : Memory) (a : Nat) (b : Byte) {x : Nat} (hx : isBuffer x = true)
    (h : (Memory.read m x).isSome = true) : (Memory.read (Memory.write m a b) x).isSome = true := by
  by_cases hax : x = a
  · subst hax
    simp [read_write_buffer m b hx]
  · rw [read_write_other m b hax]
    exact h

/-! ### The canonical form -/

theorem mem_insert {m : Memory} {a : Nat} {b : Byte} {c : Host.Cell} (h : c ∈ Memory.insert m a b) :
    c = (a, b) ∨ c ∈ m := by
  induction m with
  | nil => simpa [Memory.insert] using h
  | cons d m ih =>
    simp only [Memory.insert] at h
    split at h
    · simpa using h
    · split at h
      · simp only [List.mem_cons] at h ⊢
        rcases h with h | h
        · exact .inl h
        · exact .inr (.inr h)
      · simp only [List.mem_cons] at h ⊢
        rcases h with h | h
        · exact .inr (.inl h)
        · rcases ih h with h | h
          · exact .inl h
          · exact .inr (.inr h)

theorem mem_erase {m : Memory} {a : Nat} {c : Host.Cell} (h : c ∈ Memory.erase m a) : c ∈ m := by
  induction m with
  | nil => simp [Memory.erase] at h
  | cons d m ih =>
    simp only [Memory.erase] at h
    split at h
    · exact List.mem_cons_of_mem _ h
    · simp only [List.mem_cons] at h ⊢
      exact h.imp id ih

theorem pairwise_insert {m : Memory} (hm : m.Pairwise (fun x y => x.1 < y.1)) (a : Nat) (b : Byte) :
    (Memory.insert m a b).Pairwise (fun x y => x.1 < y.1) := by
  induction m with
  | nil => simp [Memory.insert]
  | cons d m ih =>
    have hd := List.pairwise_cons.mp hm
    simp only [Memory.insert]
    split
    · next hlt =>
      refine List.pairwise_cons.mpr ⟨fun c hc => ?_, hm⟩
      rcases List.mem_cons.mp hc with rfl | hc
      · exact hlt
      · exact Nat.lt_trans hlt (hd.1 c hc)
    · split
      · next heq => exact List.pairwise_cons.mpr ⟨fun c hc => heq ▸ hd.1 c hc, hd.2⟩
      · refine List.pairwise_cons.mpr ⟨fun c hc => ?_, ih hd.2⟩
        rcases mem_insert hc with rfl | hc
        · simp only
          omega
        · exact hd.1 c hc

theorem pairwise_erase {m : Memory} (hm : m.Pairwise (fun x y => x.1 < y.1)) (a : Nat) :
    (Memory.erase m a).Pairwise (fun x y => x.1 < y.1) := by
  induction m with
  | nil => simp [Memory.erase]
  | cons d m ih =>
    have hd := List.pairwise_cons.mp hm
    simp only [Memory.erase]
    split
    · exact hd.2
    · exact List.pairwise_cons.mpr ⟨fun c hc => hd.1 c (mem_erase hc), ih hd.2⟩

/-- Storing a byte of storage keeps the canonical form. -/
theorem wf_write {m : Memory} (hm : Memory.wf m) {a : Nat} (b : Byte) (ha : isStorage a = true) :
    Memory.wf (Memory.write m a b) := by
  unfold Memory.write
  split
  · exact ⟨pairwise_erase hm.1 a, fun c hc => hm.2 c (mem_erase hc)⟩
  · next hne =>
    refine ⟨pairwise_insert hm.1 a b, fun c hc => ?_⟩
    rcases mem_insert hc with rfl | hc
    · exact ⟨ha, hne⟩
    · exact hm.2 c hc

/-- Storing a byte string in storage keeps the canonical form. -/
theorem wf_writeBytes {m : Memory} (hm : Memory.wf m) (a : Nat) (s : List Byte)
    (ha : ∀ k < s.length, isStorage (a + k) = true) : Memory.wf (Memory.writeBytes m a s) := by
  induction s generalizing m a with
  | nil => exact hm
  | cons b s ih =>
    refine ih (wf_write hm b (ha 0 (by simp))) (a + 1) (fun k hk => ?_)
    have := ha (k + 1) (by simpa using hk)
    rwa [show a + 1 + k = a + (k + 1) by omega]

/-- `MemWrite` within a buffer's capacity keeps the canonical form. -/
theorem wf_bufWrite {m : Memory} (hm : Memory.wf m) (b : BufId) (off : Nat) (s : List Byte)
    (h : off + s.length ≤ b.cap) : Memory.wf (bufWrite m b off s) := by
  refine wf_writeBytes hm _ s (fun k hk => ?_)
  have hb : isBuffer (b.base + (off + k)) = true := isBuffer_of_lt b (by omega)
  rw [show b.base + off + k = b.base + (off + k) by omega]
  simp [isStorage, hb]

/-- The memory of the reset state has the canonical form. -/
theorem wf_reset : Memory.wf State.reset.mem := by
  constructor
  · exact List.Pairwise.nil
  · intro c hc
    cases hc

/-! ### Byte strings -/

/-- `Memory.bytes` reads exactly a string that memory holds. -/
theorem bytes_eq_some {m : Memory} {a n : Nat} {s : List Byte} :
    Memory.bytes m a n = some s ↔ s.length = n ∧ Holds m a s := by
  induction n generalizing a s with
  | zero =>
    simp only [Memory.bytes, Option.some.injEq]
    constructor
    · rintro rfl
      exact ⟨rfl, fun k h => absurd h (by simp)⟩
    · rintro ⟨h, -⟩
      exact (List.eq_nil_of_length_eq_zero h).symm
  | succ n ih =>
    simp only [Memory.bytes]
    constructor
    · intro h
      split at h
      · next b r hb hr =>
        obtain ⟨hl, hh⟩ := ih.mp hr
        obtain rfl := Option.some.inj h
        refine ⟨by simp [hl], fun k hk => ?_⟩
        cases k with
        | zero => simpa using hb
        | succ k =>
          rw [show a + (k + 1) = a + 1 + k by omega]
          simpa using hh k (by simpa using hk)
      · cases h
    · rintro ⟨hl, hh⟩
      cases s with
      | nil => simp at hl
      | cons b r =>
        have hb : Memory.read m a = some b := hh 0 (by simp)
        have hr : Memory.bytes m (a + 1) n = some r := by
          refine ih.mpr ⟨by simpa using hl, fun k hk => ?_⟩
          have := hh (k + 1) (by simpa using hk)
          rw [show a + 1 + k = a + (k + 1) by omega]
          simpa using this
        rw [hb, hr]

/-- `Memory.bytes` has no answer exactly when one of the bytes has no value. -/
theorem bytes_eq_none {m : Memory} {a n : Nat} :
    Memory.bytes m a n = none ↔ ∃ k < n, Memory.read m (a + k) = none := by
  induction n generalizing a with
  | zero => simp [Memory.bytes]
  | succ n ih =>
    simp only [Memory.bytes]
    constructor
    · intro h
      split at h
      · cases h
      · next hno =>
        cases hb : Memory.read m a with
        | none => exact ⟨0, by omega, by simpa using hb⟩
        | some b =>
          cases hr : Memory.bytes m (a + 1) n with
          | some r => exact absurd hr (hno b r hb)
          | none =>
            obtain ⟨k, hk, hn⟩ := ih.mp hr
            exact ⟨k + 1, by omega, by rwa [show a + (k + 1) = a + 1 + k by omega]⟩
    · rintro ⟨k, hk, hn⟩
      split
      · next b r hb hr =>
        exfalso
        cases k with
        | zero =>
          rw [Nat.add_zero] at hn
          rw [hn] at hb
          cases hb
        | succ k =>
          have : Memory.bytes m (a + 1) n = none :=
            ih.mpr ⟨k, by omega, by rwa [show a + 1 + k = a + (k + 1) by omega]⟩
          rw [this] at hr
          cases hr
      · rfl

/-- The bytes are there when each was written. -/
theorem bytes_of_written {m : Memory} {a n : Nat} (h : Written m a n) : ∃ s, Memory.bytes m a n = some s := by
  cases hb : Memory.bytes m a n with
  | some s => exact ⟨s, rfl⟩
  | none =>
    obtain ⟨k, hk, hn⟩ := bytes_eq_none.mp hb
    have := h k hk
    simp [hn] at this

/-- Memories that agree on the bytes give one string. -/
theorem bytes_congr {m m' : Memory} {a n : Nat} (h : ∀ k < n, Memory.read m (a + k) = Memory.read m' (a + k)) :
    Memory.bytes m a n = Memory.bytes m' a n := by
  induction n generalizing a with
  | zero => rfl
  | succ n ih =>
    have h0 := h 0 (by omega)
    have ih' := ih (a := a + 1) (fun k hk => by
      have := h (k + 1) (by omega)
      rwa [show a + 1 + k = a + (k + 1) by omega])
    simp only [Memory.bytes, ih']
    rw [show a + 0 = a from rfl] at h0
    rw [h0]

/-- A held string is held part by part. -/
theorem holds_append {m : Memory} {a : Nat} {s t : List Byte} :
    Holds m a (s ++ t) ↔ Holds m a s ∧ Holds m (a + s.length) t := by
  constructor
  · intro h
    refine ⟨fun k hk => ?_, fun k hk => ?_⟩
    · have := h k (by simp; omega)
      simpa [List.getElem_append, hk] using this
    · have := h (s.length + k) (by simpa using hk)
      rw [show a + s.length + k = a + (s.length + k) by omega]
      simpa using this
  · rintro ⟨hs, ht⟩ k hk
    by_cases hlt : k < s.length
    · simpa [List.getElem_append, hlt] using hs k hlt
    · have hk' : k - s.length < t.length := by simp at hk; omega
      have := ht (k - s.length) hk'
      rw [show a + s.length + (k - s.length) = a + k by omega] at this
      simpa [List.getElem_append, hlt] using this

/-- A byte outside a written string is as before. -/
theorem read_writeBytes_other (m : Memory) (a : Nat) (s : List Byte) {x : Nat} (h : x < a ∨ a + s.length ≤ x) :
    Memory.read (Memory.writeBytes m a s) x = Memory.read m x := by
  induction s generalizing m a with
  | nil => rfl
  | cons b s ih =>
    simp only [List.length_cons] at h
    rw [Memory.writeBytes, ih _ _ (by omega), read_write_other m b (by omega)]

/-- A string written to a buffer is held there. -/
theorem holds_writeBytes (m : Memory) (a : Nat) (s : List Byte) (h : ∀ k < s.length, isBuffer (a + k) = true) :
    Holds (Memory.writeBytes m a s) a s := by
  induction s generalizing m a with
  | nil => exact fun k hk => absurd hk (by simp)
  | cons b s ih =>
    intro k hk
    cases k with
    | zero =>
      rw [Memory.writeBytes, read_writeBytes_other _ _ _ (by omega)]
      exact read_write_buffer m b (h 0 (by simp))
    | succ k =>
      have := ih (Memory.write m a b) (a + 1)
        (fun j hj => by
          have := h (j + 1) (by simpa using hj)
          rwa [show a + 1 + j = a + (j + 1) by omega]) k (by simpa using hk)
      rw [Memory.writeBytes, show a + (k + 1) = a + 1 + k by omega]
      simpa using this

/-- `MemWrite` within a buffer's capacity leaves the string in the buffer. -/
theorem holds_bufWrite (m : Memory) (b : BufId) (s : List Byte) (h : s.length ≤ b.cap) :
    Holds (bufWrite m b 0 s) b.base s :=
  holds_writeBytes m b.base s (fun k hk => isBuffer_of_lt b (by omega))

/-- `MemRead` of a buffer gives exactly the string it holds. -/
theorem bufRead_eq_some {m : Memory} {b : BufId} {off n : Nat} {s : List Byte} :
    bufRead m b off n = some s ↔ s.length = n ∧ Holds m (b.base + off) s := bytes_eq_some

/-- A write of bytes never takes a value away from a buffer byte. -/
theorem written_writeBytes (m : Memory) (a : Nat) (s : List Byte) {x : Nat} (hx : isBuffer x = true)
    (h : (Memory.read m x).isSome = true) : (Memory.read (Memory.writeBytes m a s) x).isSome = true := by
  induction s generalizing m a with
  | nil => exact h
  | cons b s ih => exact ih (Memory.write m a b) (a + 1) (written_write m a b hx h)

/-- `MemRead` of a store is as long as asked. -/
@[simp] theorem storeRead_length (m : Memory) (a n : Nat) : (storeRead m a n).length = n := by simp [storeRead]

end Machine
end Sys2Proof
end

