-- ==== Sys2Proof/Laws/State.lean ====
section
/-! SUPPORT. One lemma per field per named update of State, each true by rfl, so that no later proof unfolds a record
update; and the flag fields of a completion. -/

namespace Sys2Proof
namespace Machine

/-! ### finish -/

@[simp] theorem finish_ctrl (s : State) (code : ResultCode) (ev : EventKind) : (finish s code ev).ctrl = s.ctrl := rfl
@[simp] theorem finish_status (s : State) (code : ResultCode) (ev : EventKind) :
    (finish s code ev).status = Status.completed code ev := rfl
@[simp] theorem finish_irqStatus (s : State) (code : ResultCode) (ev : EventKind) :
    (finish s code ev).irqStatus = s.irqStatus.afterCompletion code ev := rfl
@[simp] theorem finish_irqEnable (s : State) (code : ResultCode) (ev : EventKind) :
    (finish s code ev).irqEnable = s.irqEnable := rfl
@[simp] theorem finish_apid (s : State) (code : ResultCode) (ev : EventKind) : (finish s code ev).apid = s.apid := rfl
@[simp] theorem finish_seq (s : State) (code : ResultCode) (ev : EventKind) : (finish s code ev).seq = s.seq := rfl
@[simp] theorem finish_time (s : State) (code : ResultCode) (ev : EventKind) : (finish s code ev).time = s.time := rfl
@[simp] theorem finish_timeWlo (s : State) (code : ResultCode) (ev : EventKind) :
    (finish s code ev).timeWlo = s.timeWlo := rfl
@[simp] theorem finish_timeRhi (s : State) (code : ResultCode) (ev : EventKind) :
    (finish s code ev).timeRhi = s.timeRhi := rfl
@[simp] theorem finish_srcTag (s : State) (code : ResultCode) (ev : EventKind) :
    (finish s code ev).srcTag = s.srcTag := rfl
@[simp] theorem finish_resSrc (s : State) (code : ResultCode) (ev : EventKind) :
    (finish s code ev).resSrc = s.resSrc := rfl
@[simp] theorem finish_gsidLen (s : State) (code : ResultCode) (ev : EventKind) :
    (finish s code ev).gsidLen = s.gsidLen := rfl
@[simp] theorem finish_cmdstrLen (s : State) (code : ResultCode) (ev : EventKind) :
    (finish s code ev).cmdstrLen = s.cmdstrLen := rfl
@[simp] theorem finish_outLen (s : State) (code : ResultCode) (ev : EventKind) :
    (finish s code ev).outLen = s.outLen := rfl
@[simp] theorem finish_inLen (s : State) (code : ResultCode) (ev : EventKind) :
    (finish s code ev).inLen = s.inLen := rfl
@[simp] theorem finish_tagLen (s : State) (code : ResultCode) (ev : EventKind) :
    (finish s code ev).tagLen = s.tagLen := rfl
@[simp] theorem finish_keySLen (s : State) (code : ResultCode) (ev : EventKind) :
    (finish s code ev).keySLen = s.keySLen := rfl
@[simp] theorem finish_keyVLen (s : State) (code : ResultCode) (ev : EventKind) :
    (finish s code ev).keyVLen = s.keyVLen := rfl
@[simp] theorem finish_parsed (s : State) (code : ResultCode) (ev : EventKind) :
    (finish s code ev).parsed = s.parsed := rfl
@[simp] theorem finish_tag (s : State) (code : ResultCode) (ev : EventKind) : (finish s code ev).tag = s.tag := rfl
@[simp] theorem finish_allowCtl (s : State) (code : ResultCode) (ev : EventKind) :
    (finish s code ev).allowCtl = s.allowCtl := rfl
@[simp] theorem finish_opl (s : State) (code : ResultCode) (ev : EventKind) : (finish s code ev).opl = s.opl := rfl
@[simp] theorem finish_tsLatch (s : State) (code : ResultCode) (ev : EventKind) :
    (finish s code ev).tsLatch = s.tsLatch := rfl
@[simp] theorem finish_mem (s : State) (code : ResultCode) (ev : EventKind) : (finish s code ev).mem = s.mem := rfl
@[simp] theorem finish_script (s : State) (code : ResultCode) (ev : EventKind) :
    (finish s code ev).script = s.script := rfl
@[simp] theorem finish_resp (s : State) (code : ResultCode) (ev : EventKind) : (finish s code ev).resp = s.resp := rfl
@[simp] theorem finish_draws (s : State) (code : ResultCode) (ev : EventKind) :
    (finish s code ev).draws = s.draws := rfl

/-! ### acknowledge -/

@[simp] theorem acknowledge_ctrl (s : State) (w : Word) : (acknowledge s w).ctrl = s.ctrl := rfl
@[simp] theorem acknowledge_status (s : State) (w : Word) : (acknowledge s w).status = s.status := rfl
@[simp] theorem acknowledge_irqStatus (s : State) (w : Word) :
    (acknowledge s w).irqStatus = s.irqStatus.acknowledged w := rfl
@[simp] theorem acknowledge_irqEnable (s : State) (w : Word) : (acknowledge s w).irqEnable = s.irqEnable := rfl
@[simp] theorem acknowledge_apid (s : State) (w : Word) : (acknowledge s w).apid = s.apid := rfl
@[simp] theorem acknowledge_seq (s : State) (w : Word) : (acknowledge s w).seq = s.seq := rfl
@[simp] theorem acknowledge_time (s : State) (w : Word) : (acknowledge s w).time = s.time := rfl
@[simp] theorem acknowledge_timeWlo (s : State) (w : Word) : (acknowledge s w).timeWlo = s.timeWlo := rfl
@[simp] theorem acknowledge_timeRhi (s : State) (w : Word) : (acknowledge s w).timeRhi = s.timeRhi := rfl
@[simp] theorem acknowledge_srcTag (s : State) (w : Word) : (acknowledge s w).srcTag = s.srcTag := rfl
@[simp] theorem acknowledge_resSrc (s : State) (w : Word) : (acknowledge s w).resSrc = s.resSrc := rfl
@[simp] theorem acknowledge_gsidLen (s : State) (w : Word) : (acknowledge s w).gsidLen = s.gsidLen := rfl
@[simp] theorem acknowledge_cmdstrLen (s : State) (w : Word) : (acknowledge s w).cmdstrLen = s.cmdstrLen := rfl
@[simp] theorem acknowledge_outLen (s : State) (w : Word) : (acknowledge s w).outLen = s.outLen := rfl
@[simp] theorem acknowledge_inLen (s : State) (w : Word) : (acknowledge s w).inLen = s.inLen := rfl
@[simp] theorem acknowledge_tagLen (s : State) (w : Word) : (acknowledge s w).tagLen = s.tagLen := rfl
@[simp] theorem acknowledge_keySLen (s : State) (w : Word) : (acknowledge s w).keySLen = s.keySLen := rfl
@[simp] theorem acknowledge_keyVLen (s : State) (w : Word) : (acknowledge s w).keyVLen = s.keyVLen := rfl
@[simp] theorem acknowledge_parsed (s : State) (w : Word) : (acknowledge s w).parsed = s.parsed := rfl
@[simp] theorem acknowledge_tag (s : State) (w : Word) : (acknowledge s w).tag = s.tag := rfl
@[simp] theorem acknowledge_allowCtl (s : State) (w : Word) : (acknowledge s w).allowCtl = s.allowCtl := rfl
@[simp] theorem acknowledge_opl (s : State) (w : Word) : (acknowledge s w).opl = s.opl := rfl
@[simp] theorem acknowledge_tsLatch (s : State) (w : Word) : (acknowledge s w).tsLatch = s.tsLatch := rfl
@[simp] theorem acknowledge_mem (s : State) (w : Word) : (acknowledge s w).mem = s.mem := rfl
@[simp] theorem acknowledge_script (s : State) (w : Word) : (acknowledge s w).script = s.script := rfl
@[simp] theorem acknowledge_resp (s : State) (w : Word) : (acknowledge s w).resp = s.resp := rfl
@[simp] theorem acknowledge_draws (s : State) (w : Word) : (acknowledge s w).draws = s.draws := rfl

/-! ### dropWrite -/

@[simp] theorem dropWrite_ctrl (s : State) : (dropWrite s).ctrl = s.ctrl := rfl
@[simp] theorem dropWrite_status (s : State) : (dropWrite s).status = s.status := rfl
@[simp] theorem dropWrite_irqStatus (s : State) : (dropWrite s).irqStatus = s.irqStatus.afterDrop := rfl
@[simp] theorem dropWrite_irqEnable (s : State) : (dropWrite s).irqEnable = s.irqEnable := rfl
@[simp] theorem dropWrite_apid (s : State) : (dropWrite s).apid = s.apid := rfl
@[simp] theorem dropWrite_seq (s : State) : (dropWrite s).seq = s.seq := rfl
@[simp] theorem dropWrite_time (s : State) : (dropWrite s).time = s.time := rfl
@[simp] theorem dropWrite_timeWlo (s : State) : (dropWrite s).timeWlo = s.timeWlo := rfl
@[simp] theorem dropWrite_timeRhi (s : State) : (dropWrite s).timeRhi = s.timeRhi := rfl
@[simp] theorem dropWrite_srcTag (s : State) : (dropWrite s).srcTag = s.srcTag := rfl
@[simp] theorem dropWrite_resSrc (s : State) : (dropWrite s).resSrc = s.resSrc := rfl
@[simp] theorem dropWrite_gsidLen (s : State) : (dropWrite s).gsidLen = s.gsidLen := rfl
@[simp] theorem dropWrite_cmdstrLen (s : State) : (dropWrite s).cmdstrLen = s.cmdstrLen := rfl
@[simp] theorem dropWrite_outLen (s : State) : (dropWrite s).outLen = s.outLen := rfl
@[simp] theorem dropWrite_inLen (s : State) : (dropWrite s).inLen = s.inLen := rfl
@[simp] theorem dropWrite_tagLen (s : State) : (dropWrite s).tagLen = s.tagLen := rfl
@[simp] theorem dropWrite_keySLen (s : State) : (dropWrite s).keySLen = s.keySLen := rfl
@[simp] theorem dropWrite_keyVLen (s : State) : (dropWrite s).keyVLen = s.keyVLen := rfl
@[simp] theorem dropWrite_parsed (s : State) : (dropWrite s).parsed = s.parsed := rfl
@[simp] theorem dropWrite_tag (s : State) : (dropWrite s).tag = s.tag := rfl
@[simp] theorem dropWrite_allowCtl (s : State) : (dropWrite s).allowCtl = s.allowCtl := rfl
@[simp] theorem dropWrite_opl (s : State) : (dropWrite s).opl = s.opl := rfl
@[simp] theorem dropWrite_tsLatch (s : State) : (dropWrite s).tsLatch = s.tsLatch := rfl
@[simp] theorem dropWrite_mem (s : State) : (dropWrite s).mem = s.mem := rfl
@[simp] theorem dropWrite_script (s : State) : (dropWrite s).script = s.script := rfl
@[simp] theorem dropWrite_resp (s : State) : (dropWrite s).resp = s.resp := rfl
@[simp] theorem dropWrite_draws (s : State) : (dropWrite s).draws = s.draws := rfl

/-! ### writeParsed -/

@[simp] theorem writeParsed_ctrl (s : State) (r : ParsedFields) : (writeParsed s r).ctrl = s.ctrl := rfl
@[simp] theorem writeParsed_status (s : State) (r : ParsedFields) : (writeParsed s r).status = s.status := rfl
@[simp] theorem writeParsed_irqStatus (s : State) (r : ParsedFields) : (writeParsed s r).irqStatus = s.irqStatus := rfl
@[simp] theorem writeParsed_irqEnable (s : State) (r : ParsedFields) : (writeParsed s r).irqEnable = s.irqEnable := rfl
@[simp] theorem writeParsed_apid (s : State) (r : ParsedFields) : (writeParsed s r).apid = s.apid := rfl
@[simp] theorem writeParsed_seq (s : State) (r : ParsedFields) : (writeParsed s r).seq = s.seq := rfl
@[simp] theorem writeParsed_time (s : State) (r : ParsedFields) : (writeParsed s r).time = s.time := rfl
@[simp] theorem writeParsed_timeWlo (s : State) (r : ParsedFields) : (writeParsed s r).timeWlo = s.timeWlo := rfl
@[simp] theorem writeParsed_timeRhi (s : State) (r : ParsedFields) : (writeParsed s r).timeRhi = s.timeRhi := rfl
@[simp] theorem writeParsed_srcTag (s : State) (r : ParsedFields) : (writeParsed s r).srcTag = s.srcTag := rfl
@[simp] theorem writeParsed_resSrc (s : State) (r : ParsedFields) : (writeParsed s r).resSrc = s.resSrc := rfl
@[simp] theorem writeParsed_gsidLen (s : State) (r : ParsedFields) : (writeParsed s r).gsidLen = s.gsidLen := rfl
@[simp] theorem writeParsed_cmdstrLen (s : State) (r : ParsedFields) : (writeParsed s r).cmdstrLen = s.cmdstrLen := rfl
@[simp] theorem writeParsed_outLen (s : State) (r : ParsedFields) : (writeParsed s r).outLen = s.outLen := rfl
@[simp] theorem writeParsed_inLen (s : State) (r : ParsedFields) : (writeParsed s r).inLen = s.inLen := rfl
@[simp] theorem writeParsed_tagLen (s : State) (r : ParsedFields) : (writeParsed s r).tagLen = s.tagLen := rfl
@[simp] theorem writeParsed_keySLen (s : State) (r : ParsedFields) : (writeParsed s r).keySLen = s.keySLen := rfl
@[simp] theorem writeParsed_keyVLen (s : State) (r : ParsedFields) : (writeParsed s r).keyVLen = s.keyVLen := rfl
@[simp] theorem writeParsed_parsed (s : State) (r : ParsedFields) : (writeParsed s r).parsed = parsedOf r := rfl
@[simp] theorem writeParsed_tag (s : State) (r : ParsedFields) : (writeParsed s r).tag = s.tag := rfl
@[simp] theorem writeParsed_allowCtl (s : State) (r : ParsedFields) : (writeParsed s r).allowCtl = s.allowCtl := rfl
@[simp] theorem writeParsed_opl (s : State) (r : ParsedFields) : (writeParsed s r).opl = s.opl := rfl
@[simp] theorem writeParsed_tsLatch (s : State) (r : ParsedFields) : (writeParsed s r).tsLatch = s.tsLatch := rfl
@[simp] theorem writeParsed_mem (s : State) (r : ParsedFields) : (writeParsed s r).mem = s.mem := rfl
@[simp] theorem writeParsed_script (s : State) (r : ParsedFields) : (writeParsed s r).script = s.script := rfl
@[simp] theorem writeParsed_resp (s : State) (r : ParsedFields) : (writeParsed s r).resp = s.resp := rfl
@[simp] theorem writeParsed_draws (s : State) (r : ParsedFields) : (writeParsed s r).draws = s.draws := rfl

/-! ### clearParsed -/

@[simp] theorem clearParsed_ctrl (s : State) : (clearParsed s).ctrl = s.ctrl := rfl
@[simp] theorem clearParsed_status (s : State) : (clearParsed s).status = s.status := rfl
@[simp] theorem clearParsed_irqStatus (s : State) : (clearParsed s).irqStatus = s.irqStatus := rfl
@[simp] theorem clearParsed_irqEnable (s : State) : (clearParsed s).irqEnable = s.irqEnable := rfl
@[simp] theorem clearParsed_apid (s : State) : (clearParsed s).apid = s.apid := rfl
@[simp] theorem clearParsed_seq (s : State) : (clearParsed s).seq = s.seq := rfl
@[simp] theorem clearParsed_time (s : State) : (clearParsed s).time = s.time := rfl
@[simp] theorem clearParsed_timeWlo (s : State) : (clearParsed s).timeWlo = s.timeWlo := rfl
@[simp] theorem clearParsed_timeRhi (s : State) : (clearParsed s).timeRhi = s.timeRhi := rfl
@[simp] theorem clearParsed_srcTag (s : State) : (clearParsed s).srcTag = s.srcTag := rfl
@[simp] theorem clearParsed_resSrc (s : State) : (clearParsed s).resSrc = s.resSrc := rfl
@[simp] theorem clearParsed_gsidLen (s : State) : (clearParsed s).gsidLen = s.gsidLen := rfl
@[simp] theorem clearParsed_cmdstrLen (s : State) : (clearParsed s).cmdstrLen = s.cmdstrLen := rfl
@[simp] theorem clearParsed_outLen (s : State) : (clearParsed s).outLen = s.outLen := rfl
@[simp] theorem clearParsed_inLen (s : State) : (clearParsed s).inLen = s.inLen := rfl
@[simp] theorem clearParsed_tagLen (s : State) : (clearParsed s).tagLen = s.tagLen := rfl
@[simp] theorem clearParsed_keySLen (s : State) : (clearParsed s).keySLen = s.keySLen := rfl
@[simp] theorem clearParsed_keyVLen (s : State) : (clearParsed s).keyVLen = s.keyVLen := rfl
@[simp] theorem clearParsed_parsed (s : State) : (clearParsed s).parsed = ParsedRegs.zero := rfl
@[simp] theorem clearParsed_tag (s : State) : (clearParsed s).tag = s.tag := rfl
@[simp] theorem clearParsed_allowCtl (s : State) : (clearParsed s).allowCtl = s.allowCtl := rfl
@[simp] theorem clearParsed_opl (s : State) : (clearParsed s).opl = s.opl := rfl
@[simp] theorem clearParsed_tsLatch (s : State) : (clearParsed s).tsLatch = s.tsLatch := rfl
@[simp] theorem clearParsed_mem (s : State) : (clearParsed s).mem = s.mem := rfl
@[simp] theorem clearParsed_script (s : State) : (clearParsed s).script = s.script := rfl
@[simp] theorem clearParsed_resp (s : State) : (clearParsed s).resp = s.resp := rfl
@[simp] theorem clearParsed_draws (s : State) : (clearParsed s).draws = s.draws := rfl

/-! ### writeTag -/

@[simp] theorem writeTag_ctrl (s : State) (t : Vector Byte 32) : (writeTag s t).ctrl = s.ctrl := rfl
@[simp] theorem writeTag_status (s : State) (t : Vector Byte 32) : (writeTag s t).status = s.status := rfl
@[simp] theorem writeTag_irqStatus (s : State) (t : Vector Byte 32) : (writeTag s t).irqStatus = s.irqStatus := rfl
@[simp] theorem writeTag_irqEnable (s : State) (t : Vector Byte 32) : (writeTag s t).irqEnable = s.irqEnable := rfl
@[simp] theorem writeTag_apid (s : State) (t : Vector Byte 32) : (writeTag s t).apid = s.apid := rfl
@[simp] theorem writeTag_seq (s : State) (t : Vector Byte 32) : (writeTag s t).seq = s.seq := rfl
@[simp] theorem writeTag_time (s : State) (t : Vector Byte 32) : (writeTag s t).time = s.time := rfl
@[simp] theorem writeTag_timeWlo (s : State) (t : Vector Byte 32) : (writeTag s t).timeWlo = s.timeWlo := rfl
@[simp] theorem writeTag_timeRhi (s : State) (t : Vector Byte 32) : (writeTag s t).timeRhi = s.timeRhi := rfl
@[simp] theorem writeTag_srcTag (s : State) (t : Vector Byte 32) : (writeTag s t).srcTag = s.srcTag := rfl
@[simp] theorem writeTag_resSrc (s : State) (t : Vector Byte 32) : (writeTag s t).resSrc = s.resSrc := rfl
@[simp] theorem writeTag_gsidLen (s : State) (t : Vector Byte 32) : (writeTag s t).gsidLen = s.gsidLen := rfl
@[simp] theorem writeTag_cmdstrLen (s : State) (t : Vector Byte 32) : (writeTag s t).cmdstrLen = s.cmdstrLen := rfl
@[simp] theorem writeTag_outLen (s : State) (t : Vector Byte 32) : (writeTag s t).outLen = s.outLen := rfl
@[simp] theorem writeTag_inLen (s : State) (t : Vector Byte 32) : (writeTag s t).inLen = s.inLen := rfl
@[simp] theorem writeTag_tagLen (s : State) (t : Vector Byte 32) : (writeTag s t).tagLen = 32 := rfl
@[simp] theorem writeTag_keySLen (s : State) (t : Vector Byte 32) : (writeTag s t).keySLen = s.keySLen := rfl
@[simp] theorem writeTag_keyVLen (s : State) (t : Vector Byte 32) : (writeTag s t).keyVLen = s.keyVLen := rfl
@[simp] theorem writeTag_parsed (s : State) (t : Vector Byte 32) : (writeTag s t).parsed = s.parsed := rfl
@[simp] theorem writeTag_tag (s : State) (t : Vector Byte 32) : (writeTag s t).tag = tagBank t := rfl
@[simp] theorem writeTag_allowCtl (s : State) (t : Vector Byte 32) : (writeTag s t).allowCtl = s.allowCtl := rfl
@[simp] theorem writeTag_opl (s : State) (t : Vector Byte 32) : (writeTag s t).opl = s.opl := rfl
@[simp] theorem writeTag_tsLatch (s : State) (t : Vector Byte 32) : (writeTag s t).tsLatch = s.tsLatch := rfl
@[simp] theorem writeTag_mem (s : State) (t : Vector Byte 32) : (writeTag s t).mem = s.mem := rfl
@[simp] theorem writeTag_script (s : State) (t : Vector Byte 32) : (writeTag s t).script = s.script := rfl
@[simp] theorem writeTag_resp (s : State) (t : Vector Byte 32) : (writeTag s t).resp = s.resp := rfl
@[simp] theorem writeTag_draws (s : State) (t : Vector Byte 32) : (writeTag s t).draws = s.draws := rfl

/-! ### writePacket -/

@[simp] theorem writePacket_ctrl (s : State) (p : List Byte) : (writePacket s p).ctrl = s.ctrl := rfl
@[simp] theorem writePacket_status (s : State) (p : List Byte) : (writePacket s p).status = s.status := rfl
@[simp] theorem writePacket_irqStatus (s : State) (p : List Byte) : (writePacket s p).irqStatus = s.irqStatus := rfl
@[simp] theorem writePacket_irqEnable (s : State) (p : List Byte) : (writePacket s p).irqEnable = s.irqEnable := rfl
@[simp] theorem writePacket_apid (s : State) (p : List Byte) : (writePacket s p).apid = s.apid := rfl
@[simp] theorem writePacket_seq (s : State) (p : List Byte) :
    (writePacket s p).seq = BitVec.ofNat 14 ((s.seq.toNat + 1) % Config.seqMod) := rfl
@[simp] theorem writePacket_time (s : State) (p : List Byte) : (writePacket s p).time = s.time := rfl
@[simp] theorem writePacket_timeWlo (s : State) (p : List Byte) : (writePacket s p).timeWlo = s.timeWlo := rfl
@[simp] theorem writePacket_timeRhi (s : State) (p : List Byte) : (writePacket s p).timeRhi = s.timeRhi := rfl
@[simp] theorem writePacket_srcTag (s : State) (p : List Byte) : (writePacket s p).srcTag = s.srcTag := rfl
@[simp] theorem writePacket_resSrc (s : State) (p : List Byte) : (writePacket s p).resSrc = s.resSrc := rfl
@[simp] theorem writePacket_gsidLen (s : State) (p : List Byte) : (writePacket s p).gsidLen = s.gsidLen := rfl
@[simp] theorem writePacket_cmdstrLen (s : State) (p : List Byte) : (writePacket s p).cmdstrLen = s.cmdstrLen := rfl
@[simp] theorem writePacket_outLen (s : State) (p : List Byte) :
    (writePacket s p).outLen = BitVec.ofNat 17 p.length := rfl
@[simp] theorem writePacket_inLen (s : State) (p : List Byte) : (writePacket s p).inLen = s.inLen := rfl
@[simp] theorem writePacket_tagLen (s : State) (p : List Byte) : (writePacket s p).tagLen = s.tagLen := rfl
@[simp] theorem writePacket_keySLen (s : State) (p : List Byte) : (writePacket s p).keySLen = s.keySLen := rfl
@[simp] theorem writePacket_keyVLen (s : State) (p : List Byte) : (writePacket s p).keyVLen = s.keyVLen := rfl
@[simp] theorem writePacket_parsed (s : State) (p : List Byte) : (writePacket s p).parsed = s.parsed := rfl
@[simp] theorem writePacket_tag (s : State) (p : List Byte) : (writePacket s p).tag = s.tag := rfl
@[simp] theorem writePacket_allowCtl (s : State) (p : List Byte) : (writePacket s p).allowCtl = s.allowCtl := rfl
@[simp] theorem writePacket_opl (s : State) (p : List Byte) : (writePacket s p).opl = s.opl := rfl
@[simp] theorem writePacket_tsLatch (s : State) (p : List Byte) : (writePacket s p).tsLatch = s.tsLatch := rfl
@[simp] theorem writePacket_mem (s : State) (p : List Byte) : (writePacket s p).mem = bufWrite s.mem .out 0 p := rfl
@[simp] theorem writePacket_script (s : State) (p : List Byte) : (writePacket s p).script = s.script := rfl
@[simp] theorem writePacket_resp (s : State) (p : List Byte) : (writePacket s p).resp = s.resp := rfl
@[simp] theorem writePacket_draws (s : State) (p : List Byte) : (writePacket s p).draws = s.draws := rfl

/-! ### clearOutLen -/

@[simp] theorem clearOutLen_ctrl (s : State) : (clearOutLen s).ctrl = s.ctrl := rfl
@[simp] theorem clearOutLen_status (s : State) : (clearOutLen s).status = s.status := rfl
@[simp] theorem clearOutLen_irqStatus (s : State) : (clearOutLen s).irqStatus = s.irqStatus := rfl
@[simp] theorem clearOutLen_irqEnable (s : State) : (clearOutLen s).irqEnable = s.irqEnable := rfl
@[simp] theorem clearOutLen_apid (s : State) : (clearOutLen s).apid = s.apid := rfl
@[simp] theorem clearOutLen_seq (s : State) : (clearOutLen s).seq = s.seq := rfl
@[simp] theorem clearOutLen_time (s : State) : (clearOutLen s).time = s.time := rfl
@[simp] theorem clearOutLen_timeWlo (s : State) : (clearOutLen s).timeWlo = s.timeWlo := rfl
@[simp] theorem clearOutLen_timeRhi (s : State) : (clearOutLen s).timeRhi = s.timeRhi := rfl
@[simp] theorem clearOutLen_srcTag (s : State) : (clearOutLen s).srcTag = s.srcTag := rfl
@[simp] theorem clearOutLen_resSrc (s : State) : (clearOutLen s).resSrc = s.resSrc := rfl
@[simp] theorem clearOutLen_gsidLen (s : State) : (clearOutLen s).gsidLen = s.gsidLen := rfl
@[simp] theorem clearOutLen_cmdstrLen (s : State) : (clearOutLen s).cmdstrLen = s.cmdstrLen := rfl
@[simp] theorem clearOutLen_outLen (s : State) : (clearOutLen s).outLen = 0 := rfl
@[simp] theorem clearOutLen_inLen (s : State) : (clearOutLen s).inLen = s.inLen := rfl
@[simp] theorem clearOutLen_tagLen (s : State) : (clearOutLen s).tagLen = s.tagLen := rfl
@[simp] theorem clearOutLen_keySLen (s : State) : (clearOutLen s).keySLen = s.keySLen := rfl
@[simp] theorem clearOutLen_keyVLen (s : State) : (clearOutLen s).keyVLen = s.keyVLen := rfl
@[simp] theorem clearOutLen_parsed (s : State) : (clearOutLen s).parsed = s.parsed := rfl
@[simp] theorem clearOutLen_tag (s : State) : (clearOutLen s).tag = s.tag := rfl
@[simp] theorem clearOutLen_allowCtl (s : State) : (clearOutLen s).allowCtl = s.allowCtl := rfl
@[simp] theorem clearOutLen_opl (s : State) : (clearOutLen s).opl = s.opl := rfl
@[simp] theorem clearOutLen_tsLatch (s : State) : (clearOutLen s).tsLatch = s.tsLatch := rfl
@[simp] theorem clearOutLen_mem (s : State) : (clearOutLen s).mem = s.mem := rfl
@[simp] theorem clearOutLen_script (s : State) : (clearOutLen s).script = s.script := rfl
@[simp] theorem clearOutLen_resp (s : State) : (clearOutLen s).resp = s.resp := rfl
@[simp] theorem clearOutLen_draws (s : State) : (clearOutLen s).draws = s.draws := rfl

/-! ### copySource -/

@[simp] theorem copySource_ctrl (s : State) : (copySource s).ctrl = s.ctrl := rfl
@[simp] theorem copySource_status (s : State) : (copySource s).status = s.status := rfl
@[simp] theorem copySource_irqStatus (s : State) : (copySource s).irqStatus = s.irqStatus := rfl
@[simp] theorem copySource_irqEnable (s : State) : (copySource s).irqEnable = s.irqEnable := rfl
@[simp] theorem copySource_apid (s : State) : (copySource s).apid = s.apid := rfl
@[simp] theorem copySource_seq (s : State) : (copySource s).seq = s.seq := rfl
@[simp] theorem copySource_time (s : State) : (copySource s).time = s.time := rfl
@[simp] theorem copySource_timeWlo (s : State) : (copySource s).timeWlo = s.timeWlo := rfl
@[simp] theorem copySource_timeRhi (s : State) : (copySource s).timeRhi = s.timeRhi := rfl
@[simp] theorem copySource_srcTag (s : State) : (copySource s).srcTag = s.srcTag := rfl
@[simp] theorem copySource_resSrc (s : State) : (copySource s).resSrc = s.srcTag := rfl
@[simp] theorem copySource_gsidLen (s : State) : (copySource s).gsidLen = s.gsidLen := rfl
@[simp] theorem copySource_cmdstrLen (s : State) : (copySource s).cmdstrLen = s.cmdstrLen := rfl
@[simp] theorem copySource_outLen (s : State) : (copySource s).outLen = s.outLen := rfl
@[simp] theorem copySource_inLen (s : State) : (copySource s).inLen = s.inLen := rfl
@[simp] theorem copySource_tagLen (s : State) : (copySource s).tagLen = s.tagLen := rfl
@[simp] theorem copySource_keySLen (s : State) : (copySource s).keySLen = s.keySLen := rfl
@[simp] theorem copySource_keyVLen (s : State) : (copySource s).keyVLen = s.keyVLen := rfl
@[simp] theorem copySource_parsed (s : State) : (copySource s).parsed = s.parsed := rfl
@[simp] theorem copySource_tag (s : State) : (copySource s).tag = s.tag := rfl
@[simp] theorem copySource_allowCtl (s : State) : (copySource s).allowCtl = s.allowCtl := rfl
@[simp] theorem copySource_opl (s : State) : (copySource s).opl = s.opl := rfl
@[simp] theorem copySource_tsLatch (s : State) : (copySource s).tsLatch = s.tsLatch := rfl
@[simp] theorem copySource_mem (s : State) : (copySource s).mem = s.mem := rfl
@[simp] theorem copySource_script (s : State) : (copySource s).script = s.script := rfl
@[simp] theorem copySource_resp (s : State) : (copySource s).resp = s.resp := rfl
@[simp] theorem copySource_draws (s : State) : (copySource s).draws = s.draws := rfl

/-! ### storeWord -/

@[simp] theorem storeWord_ctrl (s : State) (off : Nat) (w : Word) : (storeWord s off w).ctrl = s.ctrl := rfl
@[simp] theorem storeWord_status (s : State) (off : Nat) (w : Word) : (storeWord s off w).status = s.status := rfl
@[simp] theorem storeWord_irqStatus (s : State) (off : Nat) (w : Word) :
    (storeWord s off w).irqStatus = s.irqStatus := rfl
@[simp] theorem storeWord_irqEnable (s : State) (off : Nat) (w : Word) :
    (storeWord s off w).irqEnable = s.irqEnable := rfl
@[simp] theorem storeWord_apid (s : State) (off : Nat) (w : Word) : (storeWord s off w).apid = s.apid := rfl
@[simp] theorem storeWord_seq (s : State) (off : Nat) (w : Word) : (storeWord s off w).seq = s.seq := rfl
@[simp] theorem storeWord_time (s : State) (off : Nat) (w : Word) : (storeWord s off w).time = s.time := rfl
@[simp] theorem storeWord_timeWlo (s : State) (off : Nat) (w : Word) : (storeWord s off w).timeWlo = s.timeWlo := rfl
@[simp] theorem storeWord_timeRhi (s : State) (off : Nat) (w : Word) : (storeWord s off w).timeRhi = s.timeRhi := rfl
@[simp] theorem storeWord_srcTag (s : State) (off : Nat) (w : Word) : (storeWord s off w).srcTag = s.srcTag := rfl
@[simp] theorem storeWord_resSrc (s : State) (off : Nat) (w : Word) : (storeWord s off w).resSrc = s.resSrc := rfl
@[simp] theorem storeWord_gsidLen (s : State) (off : Nat) (w : Word) : (storeWord s off w).gsidLen = s.gsidLen := rfl
@[simp] theorem storeWord_cmdstrLen (s : State) (off : Nat) (w : Word) :
    (storeWord s off w).cmdstrLen = s.cmdstrLen := rfl
@[simp] theorem storeWord_outLen (s : State) (off : Nat) (w : Word) : (storeWord s off w).outLen = s.outLen := rfl
@[simp] theorem storeWord_inLen (s : State) (off : Nat) (w : Word) : (storeWord s off w).inLen = s.inLen := rfl
@[simp] theorem storeWord_tagLen (s : State) (off : Nat) (w : Word) : (storeWord s off w).tagLen = s.tagLen := rfl
@[simp] theorem storeWord_keySLen (s : State) (off : Nat) (w : Word) : (storeWord s off w).keySLen = s.keySLen := rfl
@[simp] theorem storeWord_keyVLen (s : State) (off : Nat) (w : Word) : (storeWord s off w).keyVLen = s.keyVLen := rfl
@[simp] theorem storeWord_parsed (s : State) (off : Nat) (w : Word) : (storeWord s off w).parsed = s.parsed := rfl
@[simp] theorem storeWord_tag (s : State) (off : Nat) (w : Word) : (storeWord s off w).tag = s.tag := rfl
@[simp] theorem storeWord_allowCtl (s : State) (off : Nat) (w : Word) : (storeWord s off w).allowCtl = s.allowCtl := rfl
@[simp] theorem storeWord_opl (s : State) (off : Nat) (w : Word) : (storeWord s off w).opl = s.opl := rfl
@[simp] theorem storeWord_tsLatch (s : State) (off : Nat) (w : Word) : (storeWord s off w).tsLatch = s.tsLatch := rfl
@[simp] theorem storeWord_mem (s : State) (off : Nat) (w : Word) :
    (storeWord s off w).mem = Memory.writeBytes s.mem off (laneBytes w) := rfl
@[simp] theorem storeWord_script (s : State) (off : Nat) (w : Word) : (storeWord s off w).script = s.script := rfl
@[simp] theorem storeWord_resp (s : State) (off : Nat) (w : Word) : (storeWord s off w).resp = s.resp := rfl
@[simp] theorem storeWord_draws (s : State) (off : Nat) (w : Word) : (storeWord s off w).draws = s.draws := rfl

/-! ### busRead -/

@[simp] theorem busRead_ctrl (s : State) (off : Nat) : (busRead s off).ctrl = s.ctrl := rfl
@[simp] theorem busRead_status (s : State) (off : Nat) : (busRead s off).status = s.status := rfl
@[simp] theorem busRead_irqStatus (s : State) (off : Nat) : (busRead s off).irqStatus = s.irqStatus := rfl
@[simp] theorem busRead_irqEnable (s : State) (off : Nat) : (busRead s off).irqEnable = s.irqEnable := rfl
@[simp] theorem busRead_apid (s : State) (off : Nat) : (busRead s off).apid = s.apid := rfl
@[simp] theorem busRead_seq (s : State) (off : Nat) : (busRead s off).seq = s.seq := rfl
@[simp] theorem busRead_time (s : State) (off : Nat) : (busRead s off).time = s.time := rfl
@[simp] theorem busRead_timeWlo (s : State) (off : Nat) : (busRead s off).timeWlo = s.timeWlo := rfl
@[simp] theorem busRead_timeRhi (s : State) (off : Nat) :
    (busRead s off).timeRhi = if targetAt off = .timeLo then s.time.extractLsb' 32 32 else s.timeRhi := rfl
@[simp] theorem busRead_srcTag (s : State) (off : Nat) : (busRead s off).srcTag = s.srcTag := rfl
@[simp] theorem busRead_resSrc (s : State) (off : Nat) : (busRead s off).resSrc = s.resSrc := rfl
@[simp] theorem busRead_gsidLen (s : State) (off : Nat) : (busRead s off).gsidLen = s.gsidLen := rfl
@[simp] theorem busRead_cmdstrLen (s : State) (off : Nat) : (busRead s off).cmdstrLen = s.cmdstrLen := rfl
@[simp] theorem busRead_outLen (s : State) (off : Nat) : (busRead s off).outLen = s.outLen := rfl
@[simp] theorem busRead_inLen (s : State) (off : Nat) : (busRead s off).inLen = s.inLen := rfl
@[simp] theorem busRead_tagLen (s : State) (off : Nat) : (busRead s off).tagLen = s.tagLen := rfl
@[simp] theorem busRead_keySLen (s : State) (off : Nat) : (busRead s off).keySLen = s.keySLen := rfl
@[simp] theorem busRead_keyVLen (s : State) (off : Nat) : (busRead s off).keyVLen = s.keyVLen := rfl
@[simp] theorem busRead_parsed (s : State) (off : Nat) : (busRead s off).parsed = s.parsed := rfl
@[simp] theorem busRead_tag (s : State) (off : Nat) : (busRead s off).tag = s.tag := rfl
@[simp] theorem busRead_allowCtl (s : State) (off : Nat) : (busRead s off).allowCtl = s.allowCtl := rfl
@[simp] theorem busRead_opl (s : State) (off : Nat) : (busRead s off).opl = s.opl := rfl
@[simp] theorem busRead_tsLatch (s : State) (off : Nat) : (busRead s off).tsLatch = s.tsLatch := rfl
@[simp] theorem busRead_mem (s : State) (off : Nat) : (busRead s off).mem = s.mem := rfl
@[simp] theorem busRead_script (s : State) (off : Nat) : (busRead s off).script = s.script := rfl
@[simp] theorem busRead_resp (s : State) (off : Nat) :
    (busRead s off).resp = some (.readDone false (readValue s off (targetAt off))) := rfl
@[simp] theorem busRead_draws (s : State) (off : Nat) : (busRead s off).draws = s.draws + drawsAt s off := rfl

/-! ### The flag fields of a completion -/

@[simp] theorem completed_busy (code : ResultCode) (ev : EventKind) : (Status.completed code ev).busy = false := rfl
@[simp] theorem completed_done (code : ResultCode) (ev : EventKind) : (Status.completed code ev).done = true := rfl
@[simp] theorem completed_result (code : ResultCode) (ev : EventKind) :
    (Status.completed code ev).result = code.bits := rfl
@[simp] theorem completed_cls (code : ResultCode) (ev : EventKind) :
    (Status.completed code ev).cls = classOf code := rfl
@[simp] theorem completed_event (code : ResultCode) (ev : EventKind) : (Status.completed code ev).event = ev.bits := rfl
@[simp] theorem completed_severity (code : ResultCode) (ev : EventKind) :
    (Status.completed code ev).severity = severityOf ev := rfl
@[simp] theorem completed_ok (code : ResultCode) (ev : EventKind) :
    (Status.completed code ev).ok = decide (code = .ok) := rfl
@[simp] theorem completed_accept (code : ResultCode) (ev : EventKind) :
    (Status.completed code ev).accept = (decide (code = .ok) && decide (ev = .accepted)) := rfl
@[simp] theorem afterCompletion_done (q : Irq) (code : ResultCode) (ev : EventKind) :
    (q.afterCompletion code ev).done = true := rfl
@[simp] theorem afterCompletion_cmdErr (q : Irq) (code : ResultCode) (ev : EventKind) :
    (q.afterCompletion code ev).cmdErr = (q.cmdErr || decide (classOf code = 5)) := rfl
@[simp] theorem afterCompletion_alert (q : Irq) (code : ResultCode) (ev : EventKind) :
    (q.afterCompletion code ev).alert = (q.alert || decide (severityOf ev = 3)) := rfl
@[simp] theorem afterCompletion_wrErr (q : Irq) (code : ResultCode) (ev : EventKind) :
    (q.afterCompletion code ev).wrErr = q.wrErr := rfl

/-- The codes of R170 are distinct, so RESULT names the failed check one to one (R171). -/
theorem resultCode_bits_injective : ∀ a b : ResultCode, a.bits = b.bits → a = b := by
  intro a b h
  cases a <;> cases b <;> first | rfl | exact absurd h (by decide)

end Machine
end Sys2Proof
end

