-- ==== Sys2Proof/Laws/Exec.lean ====
section
/-! SUPPORT. For each operation, once, everything it can do: if it answers a next state, then one of these cases holds,
its guards included. -/

namespace Sys2Proof
namespace Machine

/-- Two `next` outcomes are equal when their states are. -/
@[simp] theorem next_inj {s t : State} :
    ((Host.Outcome.next s : Host.Outcome State Fault Refusal) = .next t) ↔ s = t :=
  ⟨fun h => by injection h, fun h => h ▸ rfl⟩

/-! ### The MAC family -/

/-- What MAC_SIGN can do. -/
theorem execMacSign_cases {s t : State} (h : execMacSign s = .next t) :
    (s.ctrl.lock = false ∧ t = finish s .notLocked .none) ∨
    (s.ctrl.lock = true ∧ Config.inCap < inCount s ∧ t = finish s .badLength .none) ∨
    (s.ctrl.lock = true ∧ inCount s ≤ Config.inCap ∧ ∃ m, message s = some m ∧
      t = finish (writeTag s (Config.macFn (keyS s) m)) .ok .none) := by
  unfold execMacSign at h
  split at h
  · next hl => exact .inl ⟨hl, (next_inj.mp h).symm⟩
  · next hl =>
    rw [Bool.not_eq_false] at hl
    split at h
    · next hn => exact .inr (.inl ⟨hl, hn, (next_inj.mp h).symm⟩)
    · next hn =>
      split at h
      · cases h
      · next m hm => exact .inr (.inr ⟨hl, Nat.le_of_not_lt hn, m, hm, (next_inj.mp h).symm⟩)

/-- What MAC_VERIFY can do. -/
theorem execMacVerify_cases {s t : State} (h : execMacVerify s = .next t) :
    (s.ctrl.lock = false ∧ t = finish s .notLocked .none) ∨
    (s.ctrl.lock = true ∧ Config.inCap < inCount s ∧ t = finish s .badLength .none) ∨
    (s.ctrl.lock = true ∧ inCount s ≤ Config.inCap ∧ ∃ m, message s = some m ∧
      t = finish s (if verify m (providedTag s) (keyV s) then .ok else .authFailed) .none) := by
  unfold execMacVerify at h
  split at h
  · next hl => exact .inl ⟨hl, (next_inj.mp h).symm⟩
  · next hl =>
    rw [Bool.not_eq_false] at hl
    split at h
    · next hn => exact .inr (.inl ⟨hl, hn, (next_inj.mp h).symm⟩)
    · next hn =>
      split at h
      · cases h
      · next m hm =>
        refine .inr (.inr ⟨hl, Nat.le_of_not_lt hn, m, hm, ?_⟩)
        split at h <;> simp_all

/-! ### BUILD -/

/-- The packet BUILD assembles is the one of the wire format (R150, R234). -/
theorem unsignedPacket_eq (apid : BitVec 11) (seq : BitVec 14) (ts : BitVec 64) (g c : List Byte) :
    unsignedPacket apid seq ts g c = wireUnsigned apid seq ts g c := by
  have hpl : packetLength ts g c = g.length + c.length + 43 := by
    simp [packetLength, secondaryHeader, payload]
    omega
  simp [unsignedPacket, wireUnsigned, header, secondaryHeader, payload, hpl, List.append_assoc]

/-- The length of the unsigned packet: 18 + Lid + Lc (R161). -/
@[simp] theorem wireUnsigned_length (apid : BitVec 11) (seq : BitVec 14) (ts : BitVec 64) (g c : List Byte) :
    (wireUnsigned apid seq ts g c).length = g.length + c.length + 18 := by
  simp [wireUnsigned]
  omega

@[simp] theorem macTag_length (k m : List Byte) : (macTag k m).length = 32 := by simp [macTag]

/-- The length of a signed packet: 50 + Lid + Lc (R161). -/
@[simp] theorem signedPacket_length (k : List Byte) (apid : BitVec 11) (seq : BitVec 14) (ts : BitVec 64)
    (g c : List Byte) : (signedPacket k apid seq ts g c).length = g.length + c.length + 50 := by
  simp [signedPacket, unsignedPacket_eq]

/-- What BUILD can do. -/
theorem execBuild_cases {s t : State} (h : execBuild s = .next t) :
    (s.ctrl.lock = false ∧ t = finish s .notLocked .none) ∨
    (s.ctrl.lock = true ∧ Config.bodyMax < s.gsidLen.toNat + s.cmdstrLen.toNat ∧
      t = finish (clearOutLen s) .pktTooLong .none) ∨
    (s.ctrl.lock = true ∧ s.gsidLen.toNat + s.cmdstrLen.toNat ≤ Config.bodyMax ∧
      ∃ g c, buildId s = some g ∧ buildCmd s = some c ∧
        ((s.ctrl.utf8Check = true ∧ wellFormedUtf8 g = false ∧ t = finish (clearOutLen s) .buildIdNotUtf8 .none) ∨
         (s.ctrl.utf8Check = true ∧ wellFormedUtf8 g = true ∧ wellFormedUtf8 c = false ∧
           t = finish (clearOutLen s) .buildCmdNotUtf8 .none) ∨
         (PassesUtf8 s.ctrl g ∧ PassesUtf8 s.ctrl c ∧
           t = finish (writePacket s (signedPacket (keyS s) s.apid s.seq s.tsLatch g c)) .ok .none))) := by
  unfold execBuild at h
  split at h
  · next hl => exact .inl ⟨hl, (next_inj.mp h).symm⟩
  · next hl =>
    rw [Bool.not_eq_false] at hl
    split at h
    · next hn => exact .inr (.inl ⟨hl, hn, (next_inj.mp h).symm⟩)
    · next hn =>
      split at h
      · next g c hg hc =>
        refine .inr (.inr ⟨hl, Nat.le_of_not_lt hn, g, c, hg, hc, ?_⟩)
        unfold PassesUtf8
        split at h
        · simp_all
        · split at h <;> simp_all
      · cases h

/-! ### PARSE and INSPECT -/

/-- Every error of steps 5 to 9 is a structural code. -/
theorem parseSpan_err {m : Memory} {n : Nat} {u t : Bool} {w1 w2 : BitVec 16} {code : ResultCode}
    (h : parseSpan m n u t w1 w2 = .err code) : classOf code = 1 := by
  simp only [parseSpan] at h
  repeat' split at h
  all_goals first | cases h; rfl | cases h

/-- Every error of ParseCore is a structural code (R251, R321). -/
theorem parseCore_err {m : Memory} {n : Nat} {u t : Bool} {code : ResultCode}
    (h : parseCore m n u t = .err code) : classOf code = 1 := by
  simp only [parseCore] at h
  repeat' split at h
  all_goals first | exact parseSpan_err h | cases h; rfl | cases h

/-- What steps 5 to 9 have established when they yield fields `r`. -/
theorem parseSpan_ok {m : Memory} {n : Nat} {u t : Bool} {w1 w2 : BitVec 16} {r : ParsedFields}
    (h : parseSpan m n u t w1 w2 = .ok r) :
    ∃ tsBytes idLenBytes g cmdLenBytes c,
      48 ≤ n ∧ bufRead m .inb 6 8 = some tsBytes ∧ bufRead m .inb 14 2 = some idLenBytes ∧
      bufRead m .inb 16 r.idLen.toNat = some g ∧ bufRead m .inb (16 + r.idLen.toNat) 2 = some cmdLenBytes ∧
      bufRead m .inb (18 + r.idLen.toNat) r.cmdLen.toNat = some c ∧
      (u = true → wellFormedUtf8 g = true) ∧ (u = true → wellFormedUtf8 c = true) ∧
      50 + r.idLen.toNat + r.cmdLen.toNat ≤ n ∧ (t = true → 50 + r.idLen.toNat + r.cmdLen.toNat = n) ∧
      r.apid = w1.extractLsb' 0 11 ∧ r.seq = w2.extractLsb' 0 14 ∧ r.ts = be64 tsBytes ∧
      r.idLen = be16 idLenBytes ∧ r.cmdLen = be16 cmdLenBytes ∧ r.rawLen = n - 32 := by
  simp only [parseSpan, Config.hdrLen_eq, Config.digestLen_eq, Config.secFixed_eq] at h
  split at h
  · cases h
  next h5 =>
  split at h
  next tsBytes idLenBytes hts hil =>
    split at h
    · cases h
    next h6 =>
    split at h
    · cases h
    next g hg =>
    split at h
    · cases h
    next h7 =>
    split at h
    · cases h
    next h7b =>
    split at h
    · cases h
    next cmdLenBytes hcl =>
    split at h
    · cases h
    next h7c =>
    split at h
    · cases h
    next c hc =>
    split at h
    · cases h
    next h8 =>
    split at h
    · cases h
    next h9 =>
    injection h with h
    subst h
    refine ⟨tsBytes, idLenBytes, g, cmdLenBytes, c, by omega, hts, hil, hg, hcl, hc, ?_, ?_, by simp only; omega, ?_,
      rfl, rfl, rfl, rfl, rfl, rfl⟩
    · intro hu
      simpa [hu] using h7
    · intro hu
      simpa [hu] using h8
    · intro ht
      have h9' : 12 + (be16 idLenBytes).toNat + (be16 cmdLenBytes).toNat = n - 6 - 32 := by simpa [ht] using h9
      simp only
      omega
  · cases h

/-- What ParseCore has established when it yields fields `r` (R251). -/
theorem parseCore_ok {m : Memory} {n : Nat} {u t : Bool} {r : ParsedFields} (h : parseCore m n u t = .ok r) :
    ∃ b1 b2 b3, bufRead m .inb 0 2 = some b1 ∧ bufRead m .inb 2 2 = some b2 ∧ bufRead m .inb 4 2 = some b3 ∧
      headerBad (be16 b1) = false ∧ flagsBad (be16 b2) = false ∧ (be16 b3).toNat + 7 = n ∧
      parseSpan m n u t (be16 b1) (be16 b2) = .ok r := by
  simp only [parseCore, Config.parseMin_eq] at h
  split at h
  · cases h
  split at h
  · cases h
  next b1 h1 =>
  split at h
  · cases h
  next hb =>
  split at h
  · cases h
  next b2 h2 =>
  split at h
  · cases h
  next hf =>
  split at h
  · cases h
  next b3 h3 =>
  split at h
  · cases h
  next hl =>
  exact ⟨b1, b2, b3, h1, h2, h3, by simpa using hb, by simpa using hf, by omega, h⟩

/-- What PARSE can do. -/
theorem execParse_cases {s t : State} (h : execParse s = .next t) :
    (∃ code, parseState s = .err code ∧ classOf code = 1 ∧ t = finish (clearParsed s) code .none) ∨
    (∃ r, parseState s = .ok r ∧ t = finish (writeParsed s r) .ok .none) := by
  unfold execParse at h
  split at h
  · cases h
  · next code hp => exact .inl ⟨code, hp, parseCore_err hp, (next_inj.mp h).symm⟩
  · next r hp => exact .inr ⟨r, hp, (next_inj.mp h).symm⟩

/-- What steps 2 to 4 of INSPECT can do. -/
theorem inspectParsed_cases {s t : State} {r : ParsedFields} (h : inspectParsed s r = .next t) :
    ∃ g, bufRead s.mem .inb 16 r.idLen.toNat = some g ∧
      ((inAllowList s g = false ∧ t = finish s .notAuthorized .unauthorizedGs) ∨
       (inAllowList s g = true ∧ ∃ m tag, bufRead s.mem .inb 0 r.rawLen = some m ∧
         bufRead s.mem .inb r.rawLen Config.digestLen = some tag ∧
         ((verify m tag (keyV s) = true ∧ t = finish s .ok .accepted) ∨
          (verify m tag (keyV s) = false ∧ t = finish s .authFailed .authFailed)))) := by
  unfold inspectParsed at h
  split at h
  · cases h
  · next g hg =>
    refine ⟨g, hg, ?_⟩
    split at h
    · next ha =>
      split at h
      · next m tag hm ht =>
        refine .inr ⟨ha, m, tag, hm, ht, ?_⟩
        split at h <;> simp_all
      · cases h
    · next ha => exact .inl ⟨by simpa using ha, (next_inj.mp h).symm⟩

/-- What INSPECT can do. -/
theorem execInspect_cases {s t : State} (h : execInspect s = .next t) :
    (s.ctrl.lock = false ∧ t = finish s .notLocked .none) ∨
    (s.ctrl.lock = true ∧ ∃ code, parseState s = .err code ∧ classOf code = 1 ∧
      t = finish (clearParsed (copySource s)) code .decodeFailure) ∨
    (s.ctrl.lock = true ∧ ∃ r, parseState s = .ok r ∧ inspectParsed (writeParsed (copySource s) r) r = .next t) := by
  unfold execInspect at h
  split at h
  · next hl => exact .inl ⟨hl, (next_inj.mp h).symm⟩
  · next hl =>
    rw [Bool.not_eq_false] at hl
    split at h
    · cases h
    · next code hp => exact .inr (.inl ⟨hl, code, hp, parseCore_err hp, (next_inj.mp h).symm⟩)
    · next r hp => exact .inr (.inr ⟨hl, r, hp, h⟩)

/-! ### Every operation -/

/-- Every operation that answers a next state ends in `finish`, from a state with the same IRQ_STATUS and OPL, and only
INSPECT passes an event kind (R322). -/
theorem exec_finishes {i : Instr} {s t : State} (h : exec i s = .next t) :
    ∃ u code ev, t = finish u code ev ∧ u.irqStatus = s.irqStatus ∧ u.opl = s.opl ∧ u.script = s.script ∧
      (i ≠ .inspect → ev = .none) := by
  cases i with
  | macSign =>
    obtain ⟨-, rfl⟩ | ⟨-, -, rfl⟩ | ⟨-, -, m, -, rfl⟩ := execMacSign_cases h
    all_goals exact ⟨_, _, _, rfl, rfl, rfl, rfl, fun _ => rfl⟩
  | macVerify =>
    obtain ⟨-, rfl⟩ | ⟨-, -, rfl⟩ | ⟨-, -, m, -, rfl⟩ := execMacVerify_cases h
    all_goals exact ⟨_, _, _, rfl, rfl, rfl, rfl, fun _ => rfl⟩
  | build =>
    obtain ⟨-, rfl⟩ | ⟨-, -, rfl⟩ | ⟨-, -, g, c, -, -, ⟨-, -, rfl⟩ | ⟨-, -, -, rfl⟩ | ⟨-, -, rfl⟩⟩ := execBuild_cases h
    all_goals exact ⟨_, _, _, rfl, rfl, rfl, rfl, fun _ => rfl⟩
  | parse =>
    obtain ⟨c, -, -, rfl⟩ | ⟨r, -, rfl⟩ := execParse_cases h
    all_goals exact ⟨_, _, _, rfl, rfl, rfl, rfl, fun _ => rfl⟩
  | inspect =>
    obtain ⟨-, rfl⟩ | ⟨-, c, -, -, rfl⟩ | ⟨-, r, -, hi⟩ := execInspect_cases h
    · exact ⟨_, _, _, rfl, rfl, rfl, rfl, fun _ => rfl⟩
    · exact ⟨_, _, _, rfl, rfl, rfl, rfl, fun h => absurd rfl h⟩
    · obtain ⟨g, -, ⟨-, rfl⟩ | ⟨-, m, tag, -, -, ⟨-, rfl⟩ | ⟨-, rfl⟩⟩⟩ := inspectParsed_cases hi
      all_goals exact ⟨_, _, _, rfl, rfl, rfl, rfl, fun h => absurd rfl h⟩

/-- No operation touches the turns still to come. -/
theorem exec_script {i : Instr} {s t : State} (h : exec i s = .next t) : t.script = s.script := by
  obtain ⟨u, code, ev, rfl, -, -, hs, -⟩ := exec_finishes h
  exact hs

/-! ### Operands that an update does not touch -/

@[simp] theorem keyV_writeParsed (s : State) (r : ParsedFields) : keyV (writeParsed s r) = keyV s := rfl
@[simp] theorem keyV_copySource (s : State) : keyV (copySource s) = keyV s := rfl
@[simp] theorem inAllowList_writeParsed (s : State) (r : ParsedFields) (g : List Byte) :
    inAllowList (writeParsed s r) g = inAllowList s g := rfl
@[simp] theorem inAllowList_copySource (s : State) (g : List Byte) : inAllowList (copySource s) g = inAllowList s g := rfl

/-- INSPECT of a packet that parses, whose ID is listed and whose tag verifies (R295). -/
theorem execInspect_accepts {s : State} {r : ParsedFields} {g m t : List Byte} (hl : s.ctrl.lock = true)
    (hp : parseState s = .ok r) (hg : bufRead s.mem .inb 16 r.idLen.toNat = some g) (ha : inAllowList s g = true)
    (hm : bufRead s.mem .inb 0 r.rawLen = some m) (ht : bufRead s.mem .inb r.rawLen 32 = some t)
    (hv : verify m t (keyV s) = true) :
    execInspect s = .next (finish (writeParsed (copySource s) r) .ok .accepted) := by
  unfold execInspect
  rw [if_neg (by simp [hl]), hp]
  simp only [inspectParsed]
  rw [writeParsed_mem, copySource_mem, hg, hm, ht]
  simp only []
  rw [if_pos (show inAllowList (writeParsed (copySource s) r) g = true from ha),
    if_pos (show verify m t (keyV (writeParsed (copySource s) r)) = true from hv)]

end Machine
end Sys2Proof
end

