-- ==== Sys2Proof/Laws/Step.lean ====
section
/-! SUPPORT. What one step can do, agent by agent, what one bus transfer can do, and the induction over a run, packaged
once. -/

namespace Sys2Proof
namespace Machine

/-! ### The agents' turns -/

theorem step_of_host {s : State} {x : Transfer} {rest : List Event} (h : s.script = .host x :: rest) :
    step s = .next (hostStep { s with script := rest } x) := by
  unfold step; rw [h]; rfl

theorem step_of_tick {s : State} {rest : List Event} (h : s.script = .tick :: rest) :
    step s = .next (tickStep { s with script := rest }) := by
  unfold step; rw [h]; rfl

theorem step_of_reset {s : State} {rest : List Event} (h : s.script = .reset :: rest) :
    step s = .next (resetStep { s with script := rest }) := by
  unfold step; rw [h]; rfl

theorem step_of_engine {s : State} {rest : List Event} (h : s.script = .engine :: rest) :
    step s = engineStep { s with script := rest } := by
  unfold step; rw [h]; rfl

theorem step_of_empty {s : State} (h : s.script = []) : step s = engineStep s := by
  unfold step; rw [h]

/-- The ENGINE's turn while an operation is in flight is its completion. -/
theorem engineStep_busy {s : State} {i : Instr} (hb : s.status.busy = true) (hf : fetch s = some i) :
    engineStep s = exec i s := by
  unfold engineStep; rw [if_pos hb, hf]

/-- What the ENGINE's turn can do. -/
theorem engineStep_cases {s t : State} (h : engineStep s = .next t) :
    (s.status.busy = false ∧ t = s) ∨ (s.status.busy = true ∧ ∃ i, fetch s = some i ∧ exec i s = .next t) := by
  unfold engineStep at h
  split at h
  · next hb =>
    split at h
    · next i hi => exact .inr ⟨hb, i, hi, h⟩
    · cases h
  · next hb => exact .inl ⟨by simpa using hb, (next_inj.mp h).symm⟩

/-- What one step can do: the turn of the first agent listed, or the ENGINE's when none is. -/
theorem step_cases {s t : State} (h : step s = .next t) :
    (s.script = [] ∧ engineStep s = .next t) ∨
    (∃ rest, s.script = .engine :: rest ∧ engineStep { s with script := rest } = .next t) ∨
    (∃ x rest, s.script = .host x :: rest ∧ t = hostStep { s with script := rest } x) ∨
    (∃ rest, s.script = .tick :: rest ∧ t = tickStep { s with script := rest }) ∨
    (∃ rest, s.script = .reset :: rest ∧ t = resetStep { s with script := rest }) := by
  unfold step at h
  split at h
  · next hs => exact .inl ⟨hs, h⟩
  · next e rest hs =>
    cases e with
    | host x => exact .inr (.inr (.inl ⟨x, rest, hs, (next_inj.mp h).symm⟩))
    | engine => exact .inr (.inl ⟨rest, hs, h⟩)
    | tick => exact .inr (.inr (.inr (.inl ⟨rest, hs, (next_inj.mp h).symm⟩)))
    | reset => exact .inr (.inr (.inr (.inr ⟨rest, hs, (next_inj.mp h).symm⟩)))

/-! ### The HOST's turn -/

/-- What one bus transfer can do: nothing, an ERROR response, a read or a write of an aligned offset in the aperture. -/
theorem hostStep_cases (s : State) (x : Transfer) :
    (Config.apertureLen ≤ x.off ∧ hostStep s x = s) ∨
    (∃ r, hostStep s x = { s with resp := some r }) ∨
    (∃ off, off < Config.apertureLen ∧ off % 4 = 0 ∧ x = readAt off ∧ hostStep s x = busRead s off) ∨
    (∃ off w, off < Config.apertureLen ∧ off % 4 = 0 ∧ x = writeAt off w ∧ hostStep s x = busWrite s off w) := by
  unfold hostStep
  split
  · next h => exact .inl ⟨h, rfl⟩
  · next h =>
    cases x with
    | read off width =>
      simp only [Transfer.off, not_le] at h
      by_cases hm : (Transfer.read off width).malformed = true
      · exact .inr (.inl ⟨.readDone true 0, by simp [hm]⟩)
      · have hm' := hm
        simp only [Transfer.malformed, Bool.or_eq_true, decide_eq_true_eq, not_or, not_not] at hm'
        exact .inr (.inr (.inl ⟨off, h, hm'.1, by simp [readAt, hm'.2], by simp [hm]⟩))
    | write off width strobes w =>
      simp only [Transfer.off, not_le] at h
      by_cases hm : (Transfer.write off width strobes w).malformed = true
      · exact .inr (.inl ⟨.writeDone true, by simp [hm]⟩)
      · have hm' := hm
        simp only [Transfer.malformed, Bool.or_eq_true, decide_eq_true_eq, not_or, not_not] at hm'
        exact .inr (.inr (.inr ⟨off, w, h, hm'.1.1, by simp [writeAt, hm'.1.2, hm'.2], by simp [hm]⟩))

/-- A read of an aligned offset in the aperture is `busRead`. -/
theorem hostStep_readAt (s : State) {off : Nat} (h : off < 0x80000) (ha : off % 4 = 0) :
    hostStep s (readAt off) = busRead s off := by
  have h1 : ¬ Config.apertureLen ≤ off := by simp; omega
  simp [hostStep, readAt, Transfer.off, Transfer.malformed, ha]
  omega

/-- A write of an aligned offset in the aperture is `busWrite`. -/
theorem hostStep_writeAt (s : State) {off : Nat} (w : Word) (h : off < 0x80000) (ha : off % 4 = 0) :
    hostStep s (writeAt off w) = busWrite s off w := by
  simp [hostStep, writeAt, Transfer.off, Transfer.malformed, ha]
  omega

/-- While BUSY = 1, the effect of a write is a drop but for the two IRQ registers (R116). -/
theorem writeEffect_busy {s : State} (hb : s.status.busy = true) (off : Nat) (w : Word)
    (h : writableBusy (targetAt off) = false) : writeEffect s off w = dropWrite s := by
  simp [writeEffect, hb, h]

/-- While BUSY = 0, the effect of a write is its target's. -/
theorem writeEffect_idle {s : State} (hb : s.status.busy = false) (off : Nat) (w : Word) :
    writeEffect s off w = writeIdle s off w (targetAt off) := by
  simp [writeEffect, hb]

/-- The outputs of the operations that no host write changes: SEQ, OUT_LEN, RES_SRC and the P_* group. -/
theorem writeEffect_outputs (s : State) (off : Nat) (w : Word) :
    (writeEffect s off w).seq = s.seq ∧ (writeEffect s off w).outLen = s.outLen ∧
      (writeEffect s off w).resSrc = s.resSrc ∧ (writeEffect s off w).parsed = s.parsed ∧
      (writeEffect s off w).script = s.script := by
  unfold writeEffect
  split
  · exact ⟨rfl, rfl, rfl, rfl, rfl⟩
  · generalize targetAt off = t
    cases t with
    | buf b => cases b <;> exact ⟨rfl, rfl, rfl, rfl, rfl⟩
    | op =>
      simp only [writeIdle, issue]
      split <;> exact ⟨rfl, rfl, rfl, rfl, rfl⟩
    | apid | keyS | keyV | allowData =>
      simp only [writeIdle, lockFrozen]
      split <;> exact ⟨rfl, rfl, rfl, rfl, rfl⟩
    | keySLen | keyVLen | allowCtl =>
      simp only [writeIdle, lockFrozen, lengthChecked]
      split
      · exact ⟨rfl, rfl, rfl, rfl, rfl⟩
      · split <;> exact ⟨rfl, rfl, rfl, rfl, rfl⟩
    | _ => exact ⟨rfl, rfl, rfl, rfl, rfl⟩

/-- A bus transfer leaves SEQ and the turns still to come. -/
theorem hostStep_seq_script (s : State) (x : Transfer) :
    (hostStep s x).seq = s.seq ∧ (hostStep s x).script = s.script := by
  obtain ⟨-, h⟩ | ⟨r, h⟩ | ⟨off, -, -, -, h⟩ | ⟨off, w, -, -, -, h⟩ := hostStep_cases s x
  · rw [h]; exact ⟨rfl, rfl⟩
  · rw [h]; exact ⟨rfl, rfl⟩
  · rw [h]; exact ⟨rfl, rfl⟩
  · rw [h]
    have := writeEffect_outputs s off w
    exact ⟨this.1, this.2.2.2.2⟩

/-- A step takes exactly the head of the turns still to come. -/
theorem step_script {s u : State} (h : step s = .next u) : u.script = s.script.tail := by
  have eng : ∀ {s u : State}, engineStep s = .next u → u.script = s.script := by
    intro s u he
    obtain ⟨-, rfl⟩ | ⟨-, i, -, hx⟩ := engineStep_cases he
    · rfl
    · exact exec_script hx
  obtain ⟨hs, he⟩ | ⟨rest, hs, he⟩ | ⟨x, rest, hs, rfl⟩ | ⟨rest, hs, rfl⟩ | ⟨rest, hs, rfl⟩ := step_cases h
  · rw [eng he, hs]; rfl
  · rw [eng he, hs]; rfl
  · rw [(hostStep_seq_script _ _).2, hs]; rfl
  · rw [hs]; unfold tickStep; split <;> rfl
  · rw [hs]; rfl

/-! ### Runs -/

theorem run_zero (s : State) : Host.Core.run core 0 s = .next s := rfl

/-- A run of k + 1 steps of a machine is a step and a run of k. -/
theorem run_succ_of (M : Host.Core) {k : Nat} {s t : M.State} :
    M.run (k + 1) s = .next t ↔ ∃ u, M.step s = .next u ∧ M.run k u = .next t := by
  simp only [Host.Core.run]
  cases M.step s <;> simp

/-- A run of k + 1 steps is a step and a run of k. -/
theorem run_succ {k : Nat} {s t : State} :
    Host.Core.run core (k + 1) s = .next t ↔ ∃ u, step s = .next u ∧ Host.Core.run core k u = .next t :=
  run_succ_of core

/-- A run of one step is the step. -/
theorem run_one {s u : State} (h : step s = .next u) : Host.Core.run core 1 s = .next u := run_succ.mpr ⟨u, h, rfl⟩

/-- A run and one more step. -/
theorem run_last {n : Nat} {s u t : State} (h : Host.Core.run core n s = .next u) (hs : step u = .next t) :
    Host.Core.run core (n + 1) s = .next t := by
  induction n generalizing s with
  | zero =>
    cases (next_inj.mp ((run_zero s).symm.trans h))
    exact run_one hs
  | succ n ih =>
    obtain ⟨v, hv, hk⟩ := run_succ.mp h
    exact run_succ.mpr ⟨v, hv, ih hk⟩

/-- The induction over a run, once: what every step keeps, every run keeps. -/
theorem run_keeps {P : State → Prop} (hstep : ∀ s t, P s → step s = .next t → P t) :
    ∀ (k : Nat) (s t : State), P s → Host.Core.run core k s = .next t → P t := by
  intro k
  induction k with
  | zero =>
    intro s t hs h
    cases (next_inj.mp ((run_zero s).symm.trans h))
    exact hs
  | succ k ih =>
    intro s t hs h
    obtain ⟨u, hu, hr⟩ := run_succ.mp h
    exact ih u t (hstep s u hs hu) hr

/-- The step after `withFetchWord` runs the operation of the word (log 2). -/
theorem step_withFetchWord (s : State) (nbits w : Nat) {i : Instr}
    (h : decode (BitVec.ofNat 32 (w % 2 ^ nbits)) = .ok i) :
    ∃ u, step (s.withFetchWord nbits w) = exec i u ∧ u.script = s.script ∧ u.mem = s.mem ∧ u.opl = opcode i ∧
      u.status = Status.issued := by
  have hf : ∀ (x : Word), decode x = .ok i → opcodeOf x = opcode i ∧ fetch { s with opl := opcodeOf x } = some i := by
    intro x hx
    unfold decode at hx
    split at hx
    · split at hx
      · next j hj =>
        injection hx with hx
        subst hx
        unfold decodeOpcode at hj
        repeat' split at hj
        all_goals first
          | (cases hj; next hc => exact ⟨hc, by simp only [fetch, hc]; decide⟩)
          | cases hj
      · cases hx
    · cases hx
  obtain ⟨ho, hfe⟩ := hf _ h
  simp only [State.withFetchWord, placeWord, h, issue]
  refine ⟨{ s with
      script := s.script
      status := Status.issued
      opl := opcodeOf (BitVec.ofNat 32 (w % 2 ^ nbits))
      tsLatch := if i = .build then s.time else s.tsLatch }, ?_, rfl, rfl, ho, rfl⟩
  · simp only [step, eventStep, engineStep]
    rw [if_pos (by rfl)]
    have : ∀ u : State, u.opl = opcodeOf (BitVec.ofNat 32 (w % 2 ^ nbits)) → fetch u = some i := by
      intro u hu
      have : fetch u = fetch { s with opl := opcodeOf (BitVec.ofNat 32 (w % 2 ^ nbits)) } := by simp only [fetch, hu]
      rw [this, hfe]
    rw [this _ rfl]

end Machine
end Sys2Proof
end

