-- ==== Sys2Proof/Laws/Bus.lean ====
section
/-! SUPPORT. What each range of the register map names (R33), so that a statement about an offset needs no search. -/

namespace Sys2Proof
namespace Machine

/-- From offset 0x080 on only banks, windows and reserved space are left. -/
theorem targetAt_window {off : Nat} (h : 0x080 ≤ off) : targetAt off = windowAt off := by
  unfold targetAt
  have : registerMap.find? (fun r => r.1 == off) = none := by
    rw [List.find?_eq_none]
    intro x hx
    have hall : ∀ x ∈ registerMap, x.1 < 0x080 := by decide
    have := hall x hx
    simp
    omega
  rw [this]

/-- Only 0x010 and 0x014 name a register the busy interlock lets through (R116). -/
theorem not_writableBusy {off : Nat} (h : off % 4 = 0) (h1 : off ≠ 0x010) (h2 : off ≠ 0x014) :
    writableBusy (targetAt off) = false := by
  by_cases hlt : off < 0x080
  · have low : ∀ off < 0x080, off % 4 = 0 → off ≠ 0x010 → off ≠ 0x014 → writableBusy (targetAt off) = false := by
      decide +kernel
    exact low off hlt h h1 h2
  · rw [targetAt_window (by omega)]
    unfold windowAt
    repeat' split
    all_goals rfl

/-- An offset that names a buffer lies in that buffer (R101, R107). -/
theorem targetAt_buf {off : Nat} {b : BufId} (h : targetAt off = .buf b) : b.base ≤ off ∧ off < b.base + b.cap := by
  by_cases hl : off < 0x080
  · exfalso
    have low : ∀ off < 0x080, targetAt off ≠ .buf .gsid ∧ targetAt off ≠ .buf .cmdstr ∧ targetAt off ≠ .buf .out ∧
        targetAt off ≠ .buf .inb := by decide +kernel
    have := low off hl
    cases b <;> tauto
  · rw [targetAt_window (by omega), windowAt] at h
    repeat' split at h
    all_goals first
      | (next hh => cases h; exact (has_iff _ _).mp hh)
      | cases h

/-- An offset that names a store lies in that store (R70, R71, R73). -/
theorem targetAt_store {off : Nat} (h : targetAt off = .keyS ∨ targetAt off = .keyV ∨ targetAt off = .allowData) :
    isStore off = true := by
  rw [isStore_iff]
  by_cases hl : off < 0x080
  · have low : ∀ off < 0x080, targetAt off ≠ .keyS ∧ targetAt off ≠ .keyV ∧ targetAt off ≠ .allowData := by
      decide +kernel
    have := low off hl
    tauto
  · rw [targetAt_window (by omega), windowAt] at h
    repeat' split at h
    all_goals first
      | omega
      | simp at h

/-- Every ALLOW_CTL register is where R33 puts it. -/
theorem targetAt_allowCtl : ∀ i : Fin 16, targetAt (0x100 + 4 * i.val) = .allowCtl i := by decide +kernel

/-- Every TAG register is where R33 puts it. -/
theorem targetAt_tag : ∀ i : Fin 8, targetAt (0x080 + 4 * i.val) = .tag i := by decide +kernel

end Machine
end Sys2Proof
end

