-- ==== Sys2Proof/Laws/Packet.lean ====
section
/-! SUPPORT. The words of a packet header, forwards and backwards (R157, R158), and what ParseCore does with a packet
whose header passes, stated once for the statements about PARSE and INSPECT. -/

namespace Sys2Proof
namespace Machine

/-! ### Header words -/

/-- Header word 1 of the wire format: the fixed fields, then the APID (R151). -/
theorem be16_headerWord1 (apid : BitVec 11) : be16 (enc16 (0x1800 + apid.toNat)) = 3#5 ++ apid := by
  have ha := apid.isLt
  apply BitVec.eq_of_toNat_eq
  rw [be16_enc16 (by omega), BitVec.toNat_append, ← Nat.shiftLeft_add_eq_or_of_lt ha]
  simp [Nat.shiftLeft_eq]

/-- Header word 2 of the wire format: the sequence flags, then the count (R152). -/
theorem be16_headerWord2 (seq : BitVec 14) : be16 (enc16 (0xC000 + seq.toNat)) = 3#2 ++ seq := by
  have hs := seq.isLt
  apply BitVec.eq_of_toNat_eq
  rw [be16_enc16 (by omega), BitVec.toNat_append, ← Nat.shiftLeft_add_eq_or_of_lt hs]
  simp [Nat.shiftLeft_eq]

theorem apid_of_headerWord1 (apid : BitVec 11) : (3#5 ++ apid).extractLsb' 0 11 = apid := by
  ext k hk
  simp [BitVec.getElem_extractLsb']
  grind

theorem seq_of_headerWord2 (seq : BitVec 14) : (3#2 ++ seq).extractLsb' 0 14 = seq := by
  ext k hk
  simp [BitVec.getElem_extractLsb']
  grind

/-- The wire format's header word 1 passes step 2 (R253). -/
theorem headerBad_headerWord1 (apid : BitVec 11) : headerBad (3#5 ++ apid) = false := by
  have e1 : (3#5 ++ apid).extractLsb' 13 3 = 0 := by
    ext k hk
    simp only [BitVec.getElem_extractLsb', BitVec.getLsbD_append]
    interval_cases k <;> simp
  have e2 : (3#5 ++ apid).extractLsb' 12 1 = 1 := by
    ext k hk
    simp only [BitVec.getElem_extractLsb', BitVec.getLsbD_append]
    interval_cases k
    simp
  have e3 : (3#5 ++ apid).extractLsb' 11 1 = 1 := by
    ext k hk
    simp only [BitVec.getElem_extractLsb', BitVec.getLsbD_append]
    interval_cases k
    simp
  simp only [headerBad]
  rw [e1, e2, e3]
  decide

/-- The wire format's header word 2 passes step 3 (R254). -/
theorem flagsBad_headerWord2 (seq : BitVec 14) : flagsBad (3#2 ++ seq) = false := by
  have e1 : (3#2 ++ seq).extractLsb' 14 2 = 3 := by
    ext k hk
    simp only [BitVec.getElem_extractLsb', BitVec.getLsbD_append]
    interval_cases k <;> simp
  simp only [flagsBad]
  rw [e1]
  decide

/-- A header word 1 that passes step 2 is the wire format's for its APID. -/
theorem headerWord1_eq {w : BitVec 16} (h : headerBad w = false) : 0x1800 + (w.extractLsb' 0 11).toNat = w.toNat := by
  simp only [headerBad, Bool.or_eq_false_iff, decide_eq_false_iff_not, ne_eq, not_not] at h
  obtain ⟨⟨h1, h2⟩, h3⟩ := h
  have a1 := congrArg BitVec.toNat h1
  have a2 := congrArg BitVec.toNat h2
  have a3 := congrArg BitVec.toNat h3
  simp only [BitVec.extractLsb'_toNat, Nat.shiftRight_eq_div_pow] at a1 a2 a3 ⊢
  simp at a1 a2 a3 ⊢
  have := w.isLt
  omega

/-- A header word 2 that passes step 3 is the wire format's for its count. -/
theorem headerWord2_eq {w : BitVec 16} (h : flagsBad w = false) : 0xC000 + (w.extractLsb' 0 14).toNat = w.toNat := by
  simp only [flagsBad, decide_eq_false_iff_not, ne_eq, not_not] at h
  have a1 := congrArg BitVec.toNat h
  simp only [BitVec.extractLsb'_toNat, Nat.shiftRight_eq_div_pow] at a1 ⊢
  simp at a1 ⊢
  have := w.isLt
  omega

/-- The two halves of a 64-bit value put together again. -/
theorem hi_append_lo (x : BitVec 64) : x.extractLsb' 32 32 ++ x.extractLsb' 0 32 = x := by
  ext k hk
  simp
  grind

/-! ### Reading IN_BUF -/

/-- A string that IN_BUF holds is what `MemRead` gives. -/
theorem inbRead_of_holds {m : Memory} {off n : Nat} {s : List Byte} (h1 : s.length = n)
    (h2 : Holds m (0x60000 + off) s) : bufRead m .inb off n = some s := bufRead_eq_some.mpr ⟨h1, h2⟩

/-- In a well-framed packet whose header passes steps 2 to 4, ParseCore comes down to steps 5 to 9 on the span. -/
theorem parseCore_framed {m : Memory} {apid : BitVec 11} {seq : BitVec 14} {span trailer : List Byte} {u t : Bool}
    (h : Holds m 0x60000 (enc16 (0x1800 + apid.toNat) ++ enc16 (0xC000 + seq.toNat) ++ enc16 (span.length + 31)
      ++ span ++ trailer)) (hs : span.length + 31 < 65536) :
    parseCore m (span.length + 38) u t = parseSpan m (span.length + 38) u t (3#5 ++ apid) (3#2 ++ seq) ∧
      Holds m (0x60000 + 6) span ∧ Holds m (0x60000 + 6 + span.length) trailer := by
  simp only [List.append_assoc, holds_append, enc16_length] at h
  obtain ⟨h1, h2, h3, h4, h5⟩ := h
  refine ⟨?_, h4, h5⟩
  simp only [parseCore, Config.parseMin_eq]
  rw [if_neg (by omega), inbRead_of_holds (off := 0) (enc16_length _) (by simpa using h1)]
  simp only []
  rw [be16_headerWord1, headerBad_headerWord1, if_neg (by simp), inbRead_of_holds (off := 2) (enc16_length _) h2]
  simp only []
  rw [be16_headerWord2, flagsBad_headerWord2, if_neg (by simp), inbRead_of_holds (off := 4) (enc16_length _) h3]
  simp only []
  rw [if_neg (by rw [be16_enc16 hs]; omega)]

/-- The timestamp and the ID length at the head of a span, and where the rest of it lies. -/
theorem span_head {m : Memory} {ts : BitVec 64} {lid : Nat} {rest : List Byte}
    (h : Holds m (0x60000 + 6) (enc64 ts.toNat ++ enc16 lid ++ rest)) :
    bufRead m .inb 6 8 = some (enc64 ts.toNat) ∧ bufRead m .inb 14 2 = some (enc16 lid) ∧
      Holds m (0x60000 + 16) rest := by
  simp only [List.append_assoc, holds_append, enc16_length, enc64_length] at h
  exact ⟨inbRead_of_holds (by simp) h.1, inbRead_of_holds (by simp) h.2.1, h.2.2⟩

/-- Bytes of IN_BUF that were written have a value. -/
theorem inbRead_of_written {m : Memory} {n : Nat} (h : Written m 0x60000 n) {off k : Nat} (hk : off + k ≤ n) :
    ∃ s, bufRead m .inb off k = some s := by
  apply bytes_of_written
  intro j hj
  have := h (off + j) (by omega)
  simpa [Nat.add_assoc] using this

/-! ### Stores and the TAG bank -/

/-- A store holds the string a read of it gives. -/
theorem storeRead_iff {m : Memory} {a n : Nat} {g : List Byte} (hst : ∀ k < n, isStore (a + k) = true)
    (hl : n = g.length) : storeRead m a n = g ↔ Holds m a g := by
  subst hl
  constructor
  · intro h k hk
    have h1 : (storeRead m a g.length)[k]'(by simpa using hk) = g[k] := by simp only [h]
    obtain ⟨b, hb⟩ := Option.isSome_iff_exists.mp (read_store_isSome m (hst k hk))
    simp [storeRead, hb] at h1
    rw [hb, h1]
  · intro h
    apply List.ext_getElem (by simp)
    intro k h1 h2
    simp [storeRead, h k h2]

/-- The key MAC_SIGN and BUILD use is the one KEY_S holds (R70, R200). -/
theorem keyS_eq {s : State} {k : List Byte} (h : SigningKey s k) : keyS s = k :=
  (storeRead_iff (fun j hj => by
    have := h.fits
    rw [← h.length_eq] at hj
    rw [isStore_iff, keySBase_eq]
    omega) h.length_eq.symm).mpr h.held

/-- The key MAC_VERIFY and INSPECT use is the one KEY_V holds (R71, R200). -/
theorem keyV_eq {s : State} {k : List Byte} (h : VerificationKey s k) : keyV s = k :=
  (storeRead_iff (fun j hj => by
    have := h.fits
    rw [← h.length_eq] at hj
    rw [isStore_iff, keyVBase_eq]
    omega) h.length_eq.symm).mpr h.held

/-- A store read depends on the bytes it reads alone. -/
theorem storeRead_congr {m m' : Memory} {a n : Nat}
    (h : ∀ k < n, Memory.read m' (a + k) = Memory.read m (a + k)) : storeRead m' a n = storeRead m a n := by
  unfold storeRead
  apply List.map_congr_left
  intro k hk
  rw [h k (List.mem_range.mp hk)]

/-- Byte j of the string written to the TAG bank (R51). -/
theorem tagBank_lane (v : Vector Byte 32) (j : Fin 32) :
    lane ((tagBank v)[j.val / 4]'(by omega)) (j.val % 4) = v[j] := by
  fin_cases j <;> simp [tagBank]

/-- The loop of `CTEq` on strings of one length: the accumulator ends 0 exactly when it began 0 and no pair differs, and
every pair is examined. -/
theorem ctLoop_spec (a b : List Byte) (acc : Byte) (n : Nat) (h : a.length = b.length) :
    ((ctLoop a b acc n).1 = 0 ↔ acc = 0 ∧ a = b) ∧ (ctLoop a b acc n).2 = n + a.length := by
  induction a generalizing b acc n with
  | nil => cases b <;> simp_all [ctLoop]
  | cons x a ih =>
    cases b with
    | nil => simp at h
    | cons y b =>
      simp only [ctLoop]
      have := ih b (acc ||| (x ^^^ y)) (n + 1) (by simpa using h)
      rw [this.1, this.2]
      have e : acc ||| (x ^^^ y) = 0 ↔ acc = 0 ∧ x = y := by
        constructor
        · intro h0
          constructor
          · ext i hi
            have := congrArg (·.getLsbD i) h0
            simp at this ⊢
            grind
          · ext i hi
            have := congrArg (·.getLsbD i) h0
            simp [hi] at this ⊢
            grind
        · rintro ⟨rfl, rfl⟩
          simp
      rw [e]
      constructor
      · simp [and_assoc]
      · simp
        omega

end Machine
end Sys2Proof
end

