-- ==== Sys2Proof/Laws/PerInstr.lean ====
section
/-! SUPPORT. Statements made per instruction: the encoding of each operation, one lemma per constructor. -/

namespace Sys2Proof
namespace Laws
namespace OpcodeField

/-- The word of an operation has a zero reserved field, carries the operation's opcode in bits [7:0], is a well-formed
operation word, and the instruction is well-formed (R140, R141). -/
def Statement (i : Instr) : Prop :=
  i.wf = true ∧ (opWord i).wf = true ∧ rsvdOf (encode i) = 0 ∧ opcodeOf (encode i) = opcode i ∧
    decodeOpcode (opcode i) = some i

theorem macSign : Statement .macSign := by unfold Statement; decide
theorem macVerify : Statement .macVerify := by unfold Statement; decide
theorem build : Statement .build := by unfold Statement; decide
theorem parse : Statement .parse := by unfold Statement; decide
theorem inspect : Statement .inspect := by unfold Statement; decide

end OpcodeField
end Laws
end Sys2Proof
end

