-- ==== Sys2Proof/Tests/Slice0.lean ====
section
/-! SUPPORT. The model's own tests: the well-formedness smoke, the decoding of words written out from R140 and R141, a few
vectors of 95_test_vectors.md, and for every obligation with hypotheses a named witness that meets them. -/

namespace Sys2Proof
namespace Tests

open Sys2Proof.Machine

/-! ### Helpers -/

/-- The configuration of V-* rows with no keys and no allow-list: locked, both checks on. -/
def operational : State := { State.reset with ctrl := { Ctrl.reset with lock := true } }

/-- The word of STATUS an outcome leaves. -/
def statusOf (o : Host.Outcome State Fault Refusal) : Option Word :=
  match o with
  | .next t => some t.status.word
  | .fault _ => none
  | .refused _ => none

/-- A property of the state an outcome leaves. -/
def after (o : Host.Outcome State Fault Refusal) (p : State → Bool) : Bool :=
  match o with
  | .next t => p t
  | .fault _ => false
  | .refused _ => false

/-- IN_BUF and IN_LEN loaded with a packet or a message. -/
def withInput (s : State) (p : List Byte) : State :=
  { s with mem := bufWrite s.mem .inb 0 p, inLen := BitVec.ofNat 32 p.length }

/-- GSID_BUF, CMDSTR_BUF and their lengths loaded. -/
def withStrings (s : State) (g c : List Byte) : State :=
  { s with
    mem := bufWrite (bufWrite s.mem .gsid 0 g) .cmdstr 0 c
    gsidLen := BitVec.ofNat 16 g.length
    cmdstrLen := BitVec.ofNat 16 c.length }

/-- A "hand" packet of 95_test_vectors.md section 2.3: a header and a span, then 32 zero bytes. -/
def hand (b : List Byte) : List Byte := b ++ List.replicate 32 0

/-- The first bytes shared by the hand packets with packet_length `pl` (one byte): APID 0, count 0. -/
def handHeader (pl : Byte) : List Byte := [0x18, 0x00, 0xC0, 0x00, 0x00, pl]

/-- Eight timestamp bytes 00. -/
def zeroTime : List Byte := List.replicate 8 0

/-- The 50 bytes of PKT-MIN with a zero trailer. -/
def minPacket : List Byte := hand (handHeader 0x2B ++ zeroTime ++ [0, 0, 0, 0])

/-- Both key stores loaded with the one-byte key "k" of V-MAC-2. -/
def keyed (s : State) : State :=
  { s with mem := Memory.write (Memory.write s.mem 0x400 0x6B) 0x500 0x6B, keySLen := 1, keyVLen := 1 }

/-- The empty key, in a state whose key lengths are 0. -/
theorem emptySigningKey {s : State} (h : s.keySLen.toNat = 0) : SigningKey s [] :=
  ⟨h.symm, by simp, fun k hk => absurd hk (by simp)⟩

theorem emptyVerificationKey {s : State} (h : s.keyVLen.toNat = 0) : VerificationKey s [] :=
  ⟨h.symm, by simp, fun k hk => absurd hk (by simp)⟩

/-! ### Well-formedness smoke -/

theorem test_wf_legal : (OpWord.mk 0x05 0).wf = true := by decide
theorem test_wf_reserved_bits : (OpWord.mk 0x03 1).rsvdZero = false ∧ (OpWord.mk 0x03 1).wf = false := by decide
theorem test_wf_opcode_zero : (OpWord.mk 0x00 0).opcodeLegal = false ∧ (OpWord.mk 0x00 0).wf = false := by decide
theorem test_wf_opcode_six : (OpWord.mk 0x06 0).opcodeLegal = false ∧ (OpWord.mk 0x06 0).wf = false := by decide

/-! ### Decoding, from the words of R140 and R141 written out bit by bit -/

theorem test_decode_mac_sign : decode 0b00000000000000000000000000000001#32 = .ok .macSign := by decide
theorem test_decode_mac_verify : decode 0b00000000000000000000000000000010#32 = .ok .macVerify := by decide
theorem test_decode_build : decode 0b00000000000000000000000000000011#32 = .ok .build := by decide
theorem test_decode_parse : decode 0b00000000000000000000000000000100#32 = .ok .parse := by decide
theorem test_decode_inspect : decode 0b00000000000000000000000000000101#32 = .ok .inspect := by decide
theorem test_decode_reserved_bit_8 : decode 0x00000101#32 = .error .reservedBits := by decide
theorem test_decode_reserved_bit_31 : decode 0x80000003#32 = .error .reservedBits := by decide
theorem test_decode_opcode_zero : decode 0x00000000#32 = .error .illegalOpcode := by decide
theorem test_decode_opcode_six : decode 0x00000006#32 = .error .illegalOpcode := by decide
theorem test_decode_opcode_ff : decode 0x000000FF#32 = .error .illegalOpcode := by decide
theorem test_table_word : decodeTableWord 32 0x00000004 = some .parse := by decide
theorem test_table_word_reserved : decodeTableWord 32 0x00000104 = none := by decide
theorem test_fetch_word_runs :
    after (step (State.reset.withFetchWord 32 0x00000004)) (fun t => t.status.word == 0x00010102) = true := by decide

/-! ### Operations -/

/-- V-MAC-2: the tag goes to the bank, TAG_LEN becomes 32, STATUS is 0x6 (the tag itself is any MacFn's). -/
theorem test_mac_sign : statusOf (exec .macSign (withInput operational [0x61, 0x62, 0x63])) = some 0x00000006 ∧
    after (exec .macSign (withInput operational [0x61, 0x62, 0x63])) (fun t => t.tagLen == 0x20) = true := by
  decide +kernel
/-- V-MAC-7. -/
theorem test_mac_sign_bad_length :
    statusOf (exec .macSign { operational with inLen := 0x00010009 }) = some 0x00053202 := by decide
/-- V-MAC-6: NOT_LOCKED, and IRQ 0x3. -/
theorem test_mac_verify_not_locked : statusOf (exec .macVerify State.reset) = some 0x00053102 ∧
    after (exec .macVerify State.reset) (fun t => t.irqStatus.word == 0x3) = true := by decide
/-- V-BLD-7. -/
theorem test_build_id_not_utf8 :
    statusOf (exec .build (withStrings operational [0xC0, 0xAF] [0x6F, 0x6B])) = some 0x00042102 := by decide +kernel
/-- V-BLD-5: the bytes before the tag, and a BUILD of them that succeeds. -/
theorem test_build_packet :
    unsignedPacket 0x7FF 0 0xFFFFFFFFFFFFFFFF [] [0x58] =
      [0x1F, 0xFF, 0xC0, 0x00, 0x00, 0x2C, 0xFF, 0xFF, 0xFF, 0xFF, 0xFF, 0xFF, 0xFF, 0xFF, 0x00, 0x00, 0x00, 0x01, 0x58] ∧
    statusOf (exec .build { withStrings operational [] [0x58] with apid := 0x7FF, tsLatch := 0xFFFFFFFFFFFFFFFF })
      = some 0x00000006 := by decide +kernel
/-- V-PRS-16. -/
theorem test_parse_cmd_truncated : statusOf (exec .parse (withInput State.reset
    (hand (handHeader 0x2E ++ zeroTime ++ [0x00, 0x00, 0x00, 0x05, 0x41, 0x42, 0x43])))) = some 0x00010902 := by
  decide +kernel
/-- V-PRS-20. -/
theorem test_parse_min : after (exec .parse (withInput State.reset minPacket)) (fun t =>
    t.status.word == 0x00000006 && t.parsed == { ParsedRegs.zero with
      valid := true, idOff := 0x10, cmdOff := 0x12, rawLen := 0x12, sigOff := 0x12 }) = true := by decide +kernel
/-- V-FW-5. -/
theorem test_inspect_too_short : statusOf (exec .inspect { operational with inLen := 24 }) = some 0x02110102 := by decide
/-- V-FW-10. -/
theorem test_inspect_not_authorized : statusOf (exec .inspect (withInput operational minPacket)) = some 0x03221002 := by
  decide +kernel

/-! ### Witnesses: encodings, issue and step -/

theorem witness_DecodeEncodeAgree : decode 0x00000003 = .ok .build := by decide

theorem witness_HeaderFieldsReadBack : (0 : Nat) < 65536 ∧ (65535 : Nat) < 65536 := by decide

theorem witness_IssueStartsOperation : State.reset.status.busy = false := by decide

/-- The three ways a word is illegal, at their boundaries, and the busy clause. -/
theorem witness_IllegalWordCompletesAtOnce :
    State.reset.status.busy = false ∧ (0x00000100#32).extractLsb' 8 24 ≠ 0 ∧
    ¬ (1 ≤ (0x00000000#32).toNat ∧ (0x00000000#32).toNat ≤ 5) ∧
    ¬ (1 ≤ (0x00000006#32).toNat ∧ (0x00000006#32).toNat ≤ 5) ∧
    ({ State.reset with status := Status.issued } : State).status.busy = true := by decide

theorem witness_StepRunsFetchedOperation :
    ∃ s : State, s.status.busy = true ∧ s.opl = opcode .inspect :=
  ⟨{ State.reset with status := Status.issued, opl := 0x05 }, by decide⟩

theorem witness_CompletionRule : ∃ t, exec .parse State.reset = .next t := ⟨_, rfl⟩

theorem witness_NotLockedChangesNothing :
    State.reset.ctrl.lock = false ∧ Instr.build ≠ .parse ∧ ∃ t, exec .parse State.reset = .next t :=
  ⟨by decide, by decide, _, rfl⟩

/-- IN_LEN one past the buffer; and a BUILD that completes. -/
theorem witness_BadLengthOnlyFromMac :
    (operational.ctrl.lock = true ∧ 65544 < ({ operational with inLen := 65545 } : State).inLen.toNat) ∧
    ∃ t, exec .build { operational with gsidLen := 32746, cmdstrLen := 32747 } = .next t :=
  ⟨by decide, _, rfl⟩

/-- Written inputs for the five operations: a message, two strings, a packet. -/
theorem witness_WrittenInputsComplete :
    InputsWritten .macSign (withInput operational [0x61]) ∧ InputsWritten .macVerify (withInput operational [0x61]) ∧
    InputsWritten .build (withStrings operational [0x61] [0x62]) ∧ InputsWritten .parse (withInput operational minPacket) ∧
    InputsWritten .inspect (withInput operational minPacket) := by
  simp only [InputsWritten]
  decide +kernel

/-- One unwritten byte for each clause about the MAC operations and BUILD, the lengths at their smallest. -/
theorem witness_UnwrittenInputFaults :
    (let s : State := { operational with inLen := 1 };
      s.ctrl.lock = true ∧ s.inLen.toNat ≤ 65544 ∧ ∃ k < s.inLen.toNat, Memory.read s.mem (0x60000 + k) = none) ∧
    (let s : State := { operational with gsidLen := 1, cmdstrLen := 65491 };
      s.ctrl.lock = true ∧ s.gsidLen.toNat + s.cmdstrLen.toNat ≤ 65492 ∧
        ∃ k < s.gsidLen.toNat, Memory.read s.mem (0x10000 + k) = none) ∧
    (let s : State := { operational with cmdstrLen := 1 };
      s.ctrl.lock = true ∧ s.gsidLen.toNat + s.cmdstrLen.toNat ≤ 65492 ∧
        ∃ k < s.cmdstrLen.toNat, Memory.read s.mem (0x20000 + k) = none) :=
  ⟨⟨by decide, by decide, 0, by decide, by decide⟩, ⟨by decide, by decide, 0, by decide, by decide⟩,
    ⟨by decide, by decide, 0, by decide, by decide⟩⟩

/-- IN_BUF holding the bytes `p` alone, IN_LEN = n, LOCK = 1. -/
def prefixState (p : List Byte) (n : Nat) : State := { withInput operational p with inLen := BitVec.ofNat 32 n }

/-- The seven reads of ParseCore, each at the smallest packet that reaches it, its last byte unwritten (V-REG-27 is the
fourth). -/
theorem witness_UnwrittenInputFaults_parse :
    (AsksFor (prefixState [] 38) [] 2 ∧ Memory.read (prefixState [] 38).mem 0x60001 = none) ∧
    (let p := enc16 (0x1800 + (0#11).toNat); AsksFor (prefixState p 38) p 2 ∧
      Holds (prefixState p 38).mem 0x60000 p ∧ Memory.read (prefixState p 38).mem 0x60003 = none) ∧
    (let p := enc16 (0x1800 + (0#11).toNat) ++ enc16 (0xC000 + (0#14).toNat); AsksFor (prefixState p 38) p 2 ∧
      Holds (prefixState p 38).mem 0x60000 p ∧ Memory.read (prefixState p 38).mem 0x60005 = none) ∧
    (let p := wireHeader 0 0 41; AsksFor (prefixState p 48) p 10 ∧
      Holds (prefixState p 48).mem 0x60000 p ∧ Memory.read (prefixState p 48).mem 0x6000F = none) ∧
    (let p := wireHeader 0 0 42 ++ enc64 (0#64).toNat ++ enc16 1; AsksFor (prefixState p 49) p 1 ∧
      Holds (prefixState p 49).mem 0x60000 p ∧ Memory.read (prefixState p 49).mem 0x60010 = none) ∧
    (let p := wireHeader 0 0 44 ++ enc64 (0#64).toNat ++ enc16 ([0x61] : List Byte).length ++ [0x61];
      AsksFor (prefixState p 51) p 2 ∧
      Holds (prefixState p 51).mem 0x60000 p ∧ Memory.read (prefixState p 51).mem 0x60012 = none) ∧
    (let p := wireHeader 0 0 45 ++ enc64 (0#64).toNat ++ enc16 ([0x61] : List Byte).length ++ [0x61] ++ enc16 1;
      AsksFor (prefixState p 52) p 1 ∧
      Holds (prefixState p 52).mem 0x60000 p ∧ Memory.read (prefixState p 52).mem 0x60013 = none) :=
  ⟨⟨.word1 (by decide), by decide⟩, ⟨.word2 0 (by decide), by decide +kernel⟩, ⟨.word3 0 0 (by decide), by decide +kernel⟩,
    ⟨.secondary 0 0 41 (by decide) (by decide) (by decide), by decide +kernel⟩,
    ⟨.id 0 0 42 0 1 (by decide) (by decide) (by decide) (by decide), by decide +kernel⟩,
    ⟨.cmdLen 0 0 44 0 [0x61] (by decide) (by decide) (fun _ => rfl) (by decide), by decide +kernel⟩,
    ⟨.cmd 0 0 45 0 [0x61] 1 (by decide) (by decide) (fun _ => rfl) (by decide) (by decide), by decide +kernel⟩⟩

/-! ### Witnesses: the keyed MAC -/

theorem witness_ConstantTimeEquality :
    ([0x01, 0x02] : List Byte).length = ([0x01, 0x03] : List Byte).length := by decide

/-- The key and the message of V-MAC-2. -/
theorem witness_MacSignSigns :
    (let s := keyed (withInput operational [0x61, 0x62, 0x63]);
      SigningKey s [0x6B] ∧ s.ctrl.lock = true ∧ ([0x61, 0x62, 0x63] : List Byte).length = s.inLen.toNat ∧
      ([0x61, 0x62, 0x63] : List Byte).length ≤ 65544 ∧ Holds s.mem 0x60000 [0x61, 0x62, 0x63]) :=
  ⟨⟨by decide, by decide, by decide +kernel⟩, by decide, by decide, by decide, by decide +kernel⟩

/-- The empty message under the key "k" and a TAG bank that holds its tag. -/
def taggedState : State := { keyed operational with tag := tagBank (Config.macFn [0x6B] []), tagLen := 32 }

/-- Both verdicts: the bank holding the tag, and a TAG_LEN one short of 32. -/
theorem witness_MacVerifyDecides :
    (VerificationKey taggedState [0x6B] ∧ taggedState.ctrl.lock = true ∧
      ([] : List Byte).length = taggedState.inLen.toNat ∧ Holds taggedState.mem 0x60000 [] ∧
      taggedState.tagLen.toNat = 32 ∧ ∀ j : Fin 32,
        (taggedState.tag[j.val / 4]'(by omega)).extractLsb' (8 * (j.val % 4)) 8 = (Config.macFn [0x6B] [])[j]) ∧
    VerificationKey { taggedState with tagLen := 31 } [0x6B] ∧
    ({ taggedState with tagLen := 31 } : State).tagLen.toNat ≠ 32 :=
  ⟨⟨⟨by decide, by decide, by decide +kernel⟩, rfl, rfl, by decide, rfl, fun j => tagBank_lane _ j⟩,
    ⟨by decide, by decide, by decide +kernel⟩, by decide⟩

theorem witness_SignedMessageVerifies :
    ∃ t, exec .macSign (keyed operational) = .next t ∧ t.status.ok = true ∧ SigningKey (keyed operational) [0x6B] ∧
      VerificationKey (keyed operational) [0x6B] :=
  ⟨_, rfl, rfl, ⟨by decide, by decide, by decide +kernel⟩, by decide, by decide, by decide +kernel⟩

/-- Both operations complete, MAC_SIGN also without success. -/
theorem witness_MacFrame :
    (∃ t, exec .macSign operational = .next t) ∧ (∃ t, exec .macSign State.reset = .next t ∧ t.status.ok = false) ∧
    ∃ t, exec .macVerify State.reset = .next t := ⟨⟨_, rfl⟩, ⟨_, rfl, rfl⟩, _, rfl⟩

/-! ### Witnesses: BUILD -/

/-- A state in which BUILD succeeds: both strings empty, SEQ at its wrap. -/
def buildState : State := { operational with seq := 0x3FFF }

theorem build_succeeds : ∃ t, exec .build buildState = .next t ∧ t.status.ok = true := ⟨_, rfl, rfl⟩

theorem witness_BuildWritesPacket :
    (let s := keyed (withStrings operational [0x61] [0x62]);
      SigningKey s [0x6B] ∧ s.ctrl.lock = true ∧ ([0x61] : List Byte).length = s.gsidLen.toNat ∧
      ([0x62] : List Byte).length = s.cmdstrLen.toNat ∧ Holds s.mem 0x10000 [0x61] ∧ Holds s.mem 0x20000 [0x62] ∧
      wellFormedUtf8 [0x61] = true ∧ wellFormedUtf8 [0x62] = true) :=
  ⟨⟨by decide, by decide, by decide +kernel⟩, by decide +kernel⟩

/-- A sum one past BODY_MAX; an ill-formed ID; a good ID with an ill-formed command. -/
theorem witness_BuildRefusesInputs :
    (let s : State := { operational with gsidLen := 32746, cmdstrLen := 32747 };
      s.ctrl.lock = true ∧ s.gsidLen.toNat + s.cmdstrLen.toNat = 65493) ∧
    (let s := withStrings operational [0xC0] [0xC0];
      s.ctrl.utf8Check = true ∧ ([0xC0] : List Byte).length = s.gsidLen.toNat ∧
      ([0xC0] : List Byte).length = s.cmdstrLen.toNat ∧ Holds s.mem 0x10000 [0xC0] ∧ Holds s.mem 0x20000 [0xC0] ∧
      wellFormedUtf8 [0xC0] = false) ∧
    (let s := withStrings operational [0x6F] [0xC0];
      s.ctrl.utf8Check = true ∧ ([0x6F] : List Byte).length = s.gsidLen.toNat ∧
      ([0xC0] : List Byte).length = s.cmdstrLen.toNat ∧ Holds s.mem 0x10000 [0x6F] ∧ Holds s.mem 0x20000 [0xC0] ∧
      wellFormedUtf8 [0x6F] = true ∧ wellFormedUtf8 [0xC0] = false) := by decide +kernel

/-- A failure of class 4, and NOT_LOCKED. -/
theorem witness_FailedBuildLeavesNoPacket :
    (∃ t, exec .build { operational with gsidLen := 65493 } = .next t ∧ t.status.cls = 4 ∧ t.status.ok = false) ∧
    ∃ t, exec .build State.reset = .next t ∧ t.status.result = 0x31 := ⟨⟨_, rfl, rfl, rfl⟩, _, rfl, rfl⟩

theorem witness_SeqAdvancesOnSuccessOnly :
    (∃ t, exec .build buildState = .next t ∧ t.status.ok = true) ∧
    ∃ t, exec .build State.reset = .next t ∧ t.status.ok = false := ⟨build_succeeds, _, rfl, rfl⟩

/-- A run of one step that completes a BUILD with success. -/
theorem witness_SeqCountsBuilds :
    ∃ s t : State, Event.reset ∉ s.script ∧ Host.Core.run core 1 s = .next t ∧ s.opl = 0x03 ∧ t.status.ok = true :=
  ⟨{ buildState with status := Status.issued, opl := 0x03 }, _, by decide, run_one rfl, rfl, rfl⟩

theorem witness_BuildFrame :
    (∃ t, exec .build buildState = .next t ∧ t.status.ok = true) ∧
    ∃ t, exec .build State.reset = .next t ∧ t.status.ok = false := ⟨build_succeeds, _, rfl, rfl⟩

/-! ### Witnesses: PARSE -/

theorem witness_ParseReadsWireFormat :
    (List.replicate 32 (0 : Byte)).length = 32 ∧
    (withInput State.reset minPacket).inLen.toNat = ([] : List Byte).length + ([] : List Byte).length + 50 ∧
    Holds (withInput State.reset minPacket).mem 0x60000 (wireUnsigned 0 0 0 [] [] ++ List.replicate 32 0) ∧
    wellFormedUtf8 [] = true := by decide +kernel

theorem witness_ParsedPacketReserialises :
    ∃ t, exec .parse (withInput State.reset minPacket) = .next t ∧ t.status.ok = true ∧
      (withInput State.reset minPacket).ctrl.trailCheck = true := by
  have h : after (exec .parse (withInput State.reset minPacket)) (fun t => t.status.ok) = true := by decide +kernel
  unfold after at h
  split at h
  · next t ht => exact ⟨t, ht, h, rfl⟩
  · cases h
  · cases h

theorem witness_ShortInputIsTooShort : ({ State.reset with inLen := 37 } : State).inLen.toNat < 38 := by decide

/-- At IN_LEN = 38: a bad version bit, a flags value of 2, a length one off. -/
theorem witness_PrimaryHeaderVerdicts :
    (let s : State := { withInput State.reset [0x38, 0x00] with inLen := 38 };
      38 ≤ s.inLen.toNat ∧ Holds s.mem 0x60000 [0x38, 0x00] ∧ (0x38#8).extractLsb' 5 3 ≠ 0) ∧
    (let s : State := { withInput State.reset [0x18, 0x00, 0x80, 0x00] with inLen := 38 };
      38 ≤ s.inLen.toNat ∧ Holds s.mem 0x60000 [0x18, 0x00, 0x80, 0x00] ∧ (0x18#8).extractLsb' 5 3 = 0 ∧
      (0x18#8).getLsbD 4 = true ∧ (0x18#8).getLsbD 3 = true ∧ (0x80#8).extractLsb' 6 2 ≠ 3) ∧
    (let s : State := { withInput State.reset [0x18, 0x00, 0xC0, 0x00, 0x00, 0x20] with inLen := 38 };
      38 ≤ s.inLen.toNat ∧ Holds s.mem 0x60000 [0x18, 0x00, 0xC0, 0x00, 0x00, 0x20] ∧ (0xC0#8).extractLsb' 6 2 = 3 ∧
      256 * (0x00#8).toNat + (0x20#8).toNat + 7 ≠ s.inLen.toNat) := by decide +kernel

/-- A hand packet of a given span, framed. -/
theorem framed_hand (span : List Byte) (h1 : span.length < 0xD9)
    (h2 : Holds (withInput State.reset (hand (handHeader (BitVec.ofNat 8 (span.length + 31)) ++ span))).mem 0x60000
      (enc16 0x1800 ++ enc16 0xC000 ++ enc16 (span.length + 31) ++ span ++ List.replicate 32 0)) :
    Framed (withInput State.reset (hand (handHeader (BitVec.ofNat 8 (span.length + 31)) ++ span))) 0 0 span
      (List.replicate 32 0) where
  held := h2
  trailer_length := rfl
  span_fits := by omega
  count := by
    simp [inCount, withInput, hand, handHeader]
    omega

/-- The spans of V-PRS-11 to V-PRS-14 and V-PRS-16 to V-PRS-18, one for each clause, at its boundary. -/
theorem witness_SpanVerdicts_short : ∃ s apid seq span trailer, Framed s apid seq span trailer ∧ span.length = 9 :=
  ⟨_, _, _, List.replicate 9 0, _, framed_hand _ (by decide) (by decide +kernel), rfl⟩

theorem witness_SpanVerdicts_id_incomplete :
    ∃ s apid seq trailer, Framed s apid seq (enc64 (0#64).toNat ++ enc16 1 ++ []) trailer ∧ ([] : List Byte).length < 1 :=
  ⟨_, _, _, _, framed_hand _ (by decide) (by decide +kernel), by decide⟩

theorem witness_SpanVerdicts_id_not_utf8 :
    ∃ s apid seq trailer, Framed s apid seq (enc64 (0#64).toNat ++ enc16 1 ++ [0xFF] ++ []) trailer ∧
      ¬ PassesUtf8 s.ctrl [0xFF] :=
  ⟨_, _, _, _, framed_hand _ (by decide) (by decide +kernel), fun h => absurd (h rfl) (by decide)⟩

theorem witness_SpanVerdicts_cmdlen_missing :
    ∃ s apid seq trailer, Framed s apid seq (enc64 (0#64).toNat ++ enc16 0 ++ [] ++ [0x00]) trailer ∧
      PassesUtf8 s.ctrl [] ∧ ([0x00] : List Byte).length < 2 :=
  ⟨_, _, _, _, framed_hand _ (by decide) (by decide +kernel), fun _ => rfl, by decide⟩

theorem witness_SpanVerdicts_cmd_truncated :
    ∃ s apid seq trailer, Framed s apid seq (enc64 (0#64).toNat ++ enc16 0 ++ [] ++ (enc16 1 ++ [])) trailer ∧
      PassesUtf8 s.ctrl [] ∧ ([] : List Byte).length < 1 :=
  ⟨_, _, _, _, framed_hand _ (by decide) (by decide +kernel), fun _ => rfl, by decide⟩

theorem witness_SpanVerdicts_cmd_not_utf8 :
    ∃ s apid seq trailer,
      Framed s apid seq (enc64 (0#64).toNat ++ enc16 0 ++ [] ++ (enc16 2 ++ [0xC0, 0x80] ++ [])) trailer ∧
      PassesUtf8 s.ctrl [] ∧ ¬ PassesUtf8 s.ctrl [0xC0, 0x80] :=
  ⟨_, _, _, _, framed_hand _ (by decide) (by decide +kernel), fun _ => rfl, fun h => absurd (h rfl) (by decide)⟩

theorem witness_SpanVerdicts_trailing_bytes :
    ∃ s apid seq trailer, Framed s apid seq (enc64 (0#64).toNat ++ enc16 0 ++ [] ++ (enc16 0 ++ [] ++ [0x00])) trailer ∧
      PassesUtf8 s.ctrl [] ∧ s.ctrl.trailCheck = true ∧ ([0x00] : List Byte) ≠ [] :=
  ⟨_, _, _, _, framed_hand _ (by decide) (by decide +kernel), fun _ => rfl, rfl, by decide⟩

/-- V-PRS-18 in column (c): TRAIL_CHECK = 0 and one byte after the command string. -/
theorem witness_TrailingBytesAllowedWhenUnchecked :
    ∃ s apid seq trailer,
      Framed s apid seq (enc64 (0#64).toNat ++ enc16 0 ++ [] ++ enc16 0 ++ [] ++ [0x00]) trailer ∧
      s.ctrl.trailCheck = false ∧ PassesUtf8 s.ctrl [] :=
  have h := framed_hand [0, 0, 0, 0, 0, 0, 0, 0, 0, 0, 0, 0, 0] (by decide) (by decide +kernel)
  ⟨{ withInput State.reset (hand (handHeader 0x2C ++ List.replicate 13 0)) with
      ctrl := { Ctrl.reset with trailCheck := false } }, 0, 0, List.replicate 32 0,
    ⟨h.held, h.trailer_length, h.span_fits, h.count⟩, rfl, fun _ => rfl⟩

/-- V-PRS-19: IN_LEN = 65545 over six bytes. -/
theorem witness_LengthPastBufferIsRejected :
    (let s : State := { withInput State.reset (handHeader 0x2B) with inLen := 65545 };
      65544 < s.inLen.toNat ∧ (handHeader 0x2B).length = 6 ∧ Holds s.mem 0x60000 (handHeader 0x2B)) := by
  decide +kernel

theorem witness_FailedParseLeavesNoFields : ∃ t, exec .parse State.reset = .next t ∧ t.status.ok = false :=
  ⟨_, rfl, rfl⟩

/-- Two memories that differ in a tag byte alone: bytes 0 to 17 of a 50-byte packet agree. -/
theorem witness_ParseReadsOnlySpan :
    (∀ k < (if 50 ≤ 65544 then 50 - 32 else 6), Memory.read (withInput State.reset minPacket).mem (0x60000 + k)
      = Memory.read (Memory.write (withInput State.reset minPacket).mem 0x60031 0xFF) (0x60000 + k)) ∧
    Memory.read (withInput State.reset minPacket).mem 0x60031
      ≠ Memory.read (Memory.write (withInput State.reset minPacket).mem 0x60031 0xFF) 0x60031 := by decide +kernel

/-! ### Witnesses: INSPECT -/

/-- Every entry within 256; an identifier of 257 bytes; a list with no valid entry. -/
theorem witness_AllowListMembership :
    (∀ i : Fin 16, State.reset.allowCtl[i].len.toNat ≤ 256) ∧ 256 < (List.replicate 257 (0 : Byte)).length ∧
    ∀ i : Fin 16, State.reset.allowCtl[i].valid = false :=
  ⟨by decide, by rw [List.length_replicate]; decide, by decide⟩

/-- V-FW-9's configuration: the empty ID is listed, keys are empty. -/
def listedState : State := { operational with allowCtl := State.reset.allowCtl.set 1 { valid := true, len := 0 } }

/-- IN_BUF holding `p`, IN_LEN = n. -/
def withBytes (s : State) (p : List Byte) (n : Nat) : State :=
  { s with mem := bufWrite s.mem .inb 0 p, inLen := BitVec.ofNat 32 n }

theorem withBytes_held (s : State) (p : List Byte) (n : Nat) (h : p.length ≤ 65544) :
    Holds (withBytes s p n).mem 0x60000 p := holds_bufWrite s.mem .inb p h

/-- PKT-MIN's bytes before the tag. -/
def minRaw : List Byte := wireUnsigned 0 0 0 [] []

/-- PKT-MIN with a given trailer in IN_BUF. -/
def withTrailer (s : State) (t : Vector Byte 32) : State := withBytes s (minRaw ++ t.toList) 50

theorem withTrailer_held (s : State) (t : Vector Byte 32) :
    Holds (withTrailer s t).mem 0x60000 (minRaw ++ t.toList) := by
  unfold withTrailer
  exact withBytes_held s _ 50 (by rw [List.length_append, minRaw, wireUnsigned_length]; simp)

theorem minRaw_length : minRaw.length = 18 := rfl

/-- The tag of PKT-MIN under the empty key, for any MacFn. -/
def minTag : Vector Byte 32 := Config.macFn [] minRaw

/-- That tag with one bit of its first byte flipped. -/
def badTag : Vector Byte 32 := minTag.set 0 (minTag[0] ^^^ 1)

theorem badTag_ne : badTag ≠ minTag := by
  intro h
  have h0 : badTag[0] = minTag[0] := by rw [h]
  have hx : badTag[0] = minTag[0] ^^^ 1 := by simp [badTag]
  rw [hx] at h0
  have key : ∀ b : Byte, b ^^^ 1 ≠ b := by decide
  exact key _ h0

theorem listed_empty (t : Vector Byte 32) : inAllowList (withTrailer listedState t) [] = true := by
  simp only [inAllowList, List.any_eq_true]
  exact ⟨1, List.mem_finRange 1, rfl⟩

/-- With no valid entry no identifier is listed. -/
theorem unlisted_empty {s : State} (h : s.allowCtl = State.reset.allowCtl) : inAllowList s [] = false := by
  have hv : ∀ i : Fin 16, State.reset.allowCtl[i].valid = false := by decide
  simp only [inAllowList, List.any_eq_false, List.mem_finRange, true_implies, allowEntry, h]
  intro i
  rw [hv i]
  simp

/-- The three outcomes: not listed, a wrong tag, the right tag. -/
theorem witness_InspectDecides :
    (VerificationKey (withTrailer operational minTag) [] ∧ inAllowList (withTrailer operational minTag) [] = false ∧
      (withTrailer operational minTag).ctrl.lock = true ∧ (withTrailer operational minTag).inLen.toNat = 50) ∧
    (VerificationKey (withTrailer listedState badTag) [] ∧ inAllowList (withTrailer listedState badTag) [] = true ∧
      badTag ≠ Config.macFn [] minRaw ∧
      Holds (withTrailer listedState badTag).mem 0x60000 (minRaw ++ badTag.toList)) ∧
    (VerificationKey (withTrailer listedState minTag) [] ∧ inAllowList (withTrailer listedState minTag) [] = true ∧
      minTag = Config.macFn [] minRaw ∧
      Holds (withTrailer listedState minTag).mem 0x60000 (minRaw ++ minTag.toList)) :=
  ⟨⟨emptyVerificationKey rfl, unlisted_empty rfl, rfl, rfl⟩,
    ⟨emptyVerificationKey rfl, listed_empty _, badTag_ne, withTrailer_held _ _⟩,
    emptyVerificationKey rfl, listed_empty _, rfl, withTrailer_held _ _⟩

/-- PKT-MIN with its last trailer byte unwritten: it parses, and its ID is listed or not. -/
theorem witness_UnwrittenInputFaults_inspect :
    (∃ t, exec .parse (withBytes listedState (minPacket.take 49) 50) = .next t ∧ t.status.ok = true ∧
      ([] : List Byte).length = t.parsed.idLen.toNat) ∧
    inAllowList (withBytes listedState (minPacket.take 49) 50) [] = true ∧
    Memory.read (withBytes listedState (minPacket.take 49) 50).mem (0x60000 + 49) = none ∧
    inAllowList (withBytes operational (minPacket.take 49) 50) [] = false := by
  refine ⟨?_, ?_, by decide +kernel, unlisted_empty rfl⟩
  · have h : after (exec .parse (withBytes listedState (minPacket.take 49) 50))
        (fun t => t.status.ok && decide (([] : List Byte).length = t.parsed.idLen.toNat)) = true := by decide +kernel
    unfold after at h
    split at h
    · next t ht =>
      rw [Bool.and_eq_true, decide_eq_true_iff] at h
      exact ⟨t, ht, h⟩
    · cases h
    · cases h
  · simp only [inAllowList, List.any_eq_true]
    exact ⟨1, List.mem_finRange 1, rfl⟩

theorem witness_InspectReportsDecodeFailure :
    operational.ctrl.lock = true ∧ ∃ t, exec .parse operational = .next t ∧ t.status.ok = false :=
  ⟨rfl, _, rfl, rfl⟩

/-- The packet with its right tag parses: the last byte it needs lies before the tag. -/
theorem parse_withTrailer (s : State) (t : Vector Byte 32) (hu : s.ctrl.utf8Check = true) (ht : s.ctrl.trailCheck = true) :
    parseState (withTrailer s t) =
      .ok { apid := 0, seq := 0, ts := 0, idLen := 0, cmdLen := 0, rawLen := 18 } := by
  have h := withTrailer_held s t
  have e : minRaw ++ t.toList = enc16 (0x1800 + (0#11).toNat) ++ enc16 (0xC000 + (0#14).toNat) ++
      enc16 ((List.replicate 12 (0 : Byte)).length + 31) ++ List.replicate 12 0 ++ t.toList := by
    rw [show minRaw = enc16 (0x1800 + (0#11).toNat) ++ enc16 (0xC000 + (0#14).toNat) ++
      enc16 ((List.replicate 12 (0 : Byte)).length + 31) ++ List.replicate 12 0 by decide]
  rw [e] at h
  obtain ⟨hp, hs, -⟩ := parseCore_framed (u := true) (t := true) h (by decide)
  have e2 : List.replicate 12 (0 : Byte) = enc64 (0#64).toNat ++ enc16 0 ++ [0, 0] := by decide
  rw [e2] at hs
  obtain ⟨h1, h2, h3⟩ := span_head hs
  have h4 : bufRead (withTrailer s t).mem .inb 16 2 = some [0, 0] := inbRead_of_holds rfl h3
  have hps : parseState (withTrailer s t) = parseCore (withTrailer s t).mem 50 true true := by
    show parseCore _ _ s.ctrl.utf8Check s.ctrl.trailCheck = _
    rw [hu, ht]
    rfl
  rw [hps]
  refine hp.trans ?_
  simp only [parseSpan, h1, h2]
  rw [show be16 (enc16 0) = 0 by decide]
  have n0 : (0 : BitVec 16).toNat = 0 := rfl
  rw [n0]
  have h5 : ∀ off, bufRead (withTrailer s t).mem .inb off 0 = some [] := fun _ => rfl
  rw [h5]
  simp only [Nat.add_zero]
  rw [h4]
  simp only []
  rw [show be16 [0, 0] = 0 by decide, n0, h5]
  simp only []
  rw [show be64 (enc64 (0#64).toNat) = 0 by decide, show wellFormedUtf8 [] = true by decide, apid_of_headerWord1,
    seq_of_headerWord2]
  rfl

/-- A string verifies against itself. -/
theorem verify_macTag (k m : List Byte) : verify m (macTag k m) k = true := by
  unfold verify ctEq
  rw [if_neg (by simp)]
  exact decide_eq_true ((ctLoop_spec _ _ _ _ rfl).1.mpr ⟨rfl, rfl⟩)

/-- INSPECT accepts the packet with its right tag, for any MacFn. -/
theorem inspect_accepts : ∃ r, exec .inspect (withTrailer listedState minTag) =
    .next (finish (writeParsed (copySource (withTrailer listedState minTag)) r) .ok .accepted) := by
  have hh := withTrailer_held listedState minTag
  rw [holds_append, minRaw_length] at hh
  exact ⟨_, execInspect_accepts rfl (parse_withTrailer listedState minTag rfl rfl)
    (inbRead_of_holds (s := []) rfl (fun k hk => absurd hk (by simp))) (listed_empty minTag)
    (inbRead_of_holds minRaw_length hh.1) (inbRead_of_holds (by simp) hh.2) (verify_macTag [] minRaw)⟩

theorem witness_AcceptedMeansListedAndAuthentic :
    VerificationKey (withTrailer listedState minTag) [] ∧
    ∃ t, exec .inspect (withTrailer listedState minTag) = .next t ∧ t.status.accept = true :=
  ⟨emptyVerificationKey rfl, _, inspect_accepts.choose_spec, rfl⟩

/-- Two states that agree on the inputs of INSPECT and differ in TIME, SRC_TAG and SEQ. -/
theorem witness_InspectIsPure :
    (let s := operational;
      let s' : State := { operational with time := 1, srcTag := 0xC0A80001, seq := 5 };
      s ≠ s' ∧ s.ctrl.lock = true ∧ s'.ctrl = s.ctrl ∧ s'.inLen = s.inLen ∧ s'.allowCtl = s.allowCtl ∧
      s'.keyVLen = s.keyVLen ∧ s'.mem = s.mem) := by decide

/-- One tag byte of an accepted packet changed. -/
theorem witness_TamperedTagIsRejected :
    ∃ (s t : State) (mem : Memory), exec .inspect s = .next t ∧ t.status.accept = true ∧
      (∀ a, ¬ (0x60000 + (s.inLen.toNat - 32) ≤ a ∧ a < 0x60000 + s.inLen.toNat) →
        Memory.read mem a = Memory.read s.mem a) ∧
      Written mem (0x60000 + (s.inLen.toNat - 32)) 32 ∧
      ∃ k < 32, Memory.read mem (0x60000 + (s.inLen.toNat - 32) + k)
        ≠ Memory.read s.mem (0x60000 + (s.inLen.toNat - 32) + k) := by
  have hh := withTrailer_held listedState minTag
  rw [holds_append, minRaw_length] at hh
  have h2 : Holds (withTrailer listedState minTag).mem (0x60000 + 18) minTag.toList := hh.2
  obtain ⟨r, hr⟩ := inspect_accepts
  refine ⟨_, _, Memory.write (withTrailer listedState minTag).mem (0x60000 + 18) (minTag[0] ^^^ 1), hr, rfl,
    fun a ha => read_write_other _ _ ?_, ?_, 0, by decide, ?_⟩
  · have e : (withTrailer listedState minTag).inLen.toNat = 50 := rfl
    rw [e] at ha
    omega
  · intro k hk
    refine written_write _ _ _ ?_ ?_
    · have e : (withTrailer listedState minTag).inLen.toNat = 50 := rfl
      rw [e, isBuffer_iff]
      omega
    · show (Memory.read (withTrailer listedState minTag).mem (0x60000 + 18 + k)).isSome = true
      rw [h2 k (by simpa using hk)]
      rfl
  · show Memory.read (Memory.write _ (0x60000 + 18) _) (0x60000 + 18) ≠ Memory.read _ (0x60000 + 18)
    rw [read_write_buffer _ _ (by decide), show Memory.read (withTrailer listedState minTag).mem (0x60000 + 18)
      = some minTag[0] by simpa using h2 0 (by simp)]
    intro h
    injection h with h
    have key : ∀ b : Byte, b ^^^ 1 ≠ b := by decide
    exact key _ h

/-- PKT-MIN accepted, and its raw_without_signature with bit 0 of the APID flipped. -/
theorem witness_TamperedTagIsRejected_raw :
    ∃ (s t : State) (mem : Memory) (raw raw' : List Byte), exec .inspect s = .next t ∧ t.status.accept = true ∧
      VerificationKey s [] ∧ raw.length + 32 = s.inLen.toNat ∧ Holds s.mem 0x60000 raw ∧ Holds mem 0x60000 raw' ∧
      OneBitApart raw raw' ∧
      ∀ a, ¬ (0x60000 ≤ a ∧ a < 0x60000 + raw.length) → Memory.read mem a = Memory.read s.mem a := by
  have hh := withTrailer_held listedState minTag
  rw [holds_append, minRaw_length] at hh
  obtain ⟨r, hr⟩ := inspect_accepts
  refine ⟨_, _, Memory.write (withTrailer listedState minTag).mem (0x60000 + 1) 0x01, minRaw, minRaw.set 1 0x01, hr, rfl,
    emptyVerificationKey rfl, rfl, hh.1, ?_, ⟨1, by decide, 0, by decide, by decide⟩, fun a ha => read_write_other _ _ ?_⟩
  · intro k hk
    rw [List.length_set] at hk
    by_cases h1 : k = 1
    · subst h1
      rw [read_write_buffer _ _ (by decide)]
      rfl
    · rw [read_write_other _ _ (by omega), hh.1 k hk, List.getElem_set_ne (by omega)]
  · rw [minRaw_length] at ha
    omega

/-- The exclusive or of a string's bytes. -/
def parity (m : List Byte) : Byte := m.foldr (· ^^^ ·) 0

theorem parity_set (m : List Byte) (j : Nat) (h : j < m.length) (d : Byte) :
    parity (m.set j (m[j] ^^^ d)) = parity m ^^^ d := by
  induction m generalizing j with
  | nil => simp at h
  | cons b m ih =>
    cases j with
    | zero =>
      simp only [List.set_cons_zero, List.getElem_cons_zero, parity, List.foldr_cons]
      rw [BitVec.xor_assoc, BitVec.xor_comm d, ← BitVec.xor_assoc]
    | succ j =>
      have := ih j (by simpa using h)
      simp only [List.set_cons_succ, List.getElem_cons_succ, parity, List.foldr_cons] at this ⊢
      rw [this, BitVec.xor_assoc]

/-- R302's hypothesis can be met: a MAC that keeps the parity of the message satisfies it under every key. -/
theorem oneBitDistinct_satisfiable : ∃ mac, ∀ k, OneBitDistinct mac k := by
  refine ⟨fun _ m => Vector.replicate 32 (parity m), fun k m m' _ h he => ?_⟩
  obtain ⟨j, hj, i, hi, rfl⟩ := h
  have h0 : parity m = parity m ^^^ BitVec.twoPow 8 i := by
    have := congrArg (fun v : Vector Byte 32 => v[0]) he
    simpa [parity_set] using this
  have key : ∀ b : Byte, ∀ i < 8, b ≠ b ^^^ BitVec.twoPow 8 i := by decide +kernel
  exact key _ i hi h0

/-- An idle state, and every operation's clause completes: INSPECT with LOCK 1 and 0, and PARSE. -/
theorem witness_SourceTagReported :
    State.reset.status.busy = false ∧
    (∃ t, exec .inspect operational = .next t ∧ operational.ctrl.lock = true) ∧
    (∃ t, exec .inspect State.reset = .next t ∧ State.reset.ctrl.lock = false) ∧
    ∃ t, exec .parse State.reset = .next t := ⟨rfl, ⟨_, rfl, rfl⟩, ⟨_, rfl, rfl⟩, _, rfl⟩

theorem witness_ParseInspectFrame :
    (∃ t, exec .parse State.reset = .next t) ∧ ∃ t, exec .inspect operational = .next t := ⟨⟨_, rfl⟩, _, rfl⟩

/-! ### Witnesses: the codec and the firewall together -/

/-- The packet BUILD makes of two empty strings in `s`. -/
def builtPacket (s : State) : List Byte := signedPacket (keyS s) s.apid s.seq s.tsLatch [] []

theorem builtPacket_length (s : State) : (builtPacket s).length = 50 := signedPacket_length _ _ _ _ _ _

/-- The state a BUILD of two empty strings leaves. -/
def afterBuild (s : State) : State := finish (writePacket s (builtPacket s)) .ok .none

theorem build_listed : exec .build listedState = .next (afterBuild listedState) := rfl

theorem afterBuild_outLen (s : State) : (afterBuild s).outLen.toNat = 50 := by
  unfold afterBuild
  rw [finish_outLen, writePacket_outLen, builtPacket_length]
  rfl

/-- A packet held at two places reads alike there. -/
theorem copy_agrees {m m' : Memory} {q : List Byte} {n : Nat} (h : Holds m 0x40000 q) (h' : Holds m' 0x60000 q)
    (hn : q.length = n) : ∀ k < n, Memory.read m' (0x60000 + k) = Memory.read m (0x40000 + k) := by
  intro k hk
  rw [h k (by omega), h' k (by omega)]

theorem afterBuild_held (s : State) : Holds (afterBuild s).mem 0x40000 (builtPacket s) := by
  unfold afterBuild
  rw [finish_mem, writePacket_mem]
  have h := holds_bufWrite s.mem .out (builtPacket s) (by rw [builtPacket_length]; decide)
  rw [base_out] at h
  exact h

/-- The packet copied to IN_BUF, in the state BUILD left. -/
def reloaded (s : State) : State := withBytes (afterBuild s) (builtPacket s) 50

theorem reloaded_agrees (s : State) :
    ∀ k < (afterBuild s).outLen.toNat, Memory.read (reloaded s).mem (0x60000 + k)
      = Memory.read (afterBuild s).mem (0x40000 + k) := by
  rw [afterBuild_outLen]
  unfold reloaded
  exact copy_agrees (afterBuild_held s) (withBytes_held _ _ _ (by rw [builtPacket_length]; decide)) (builtPacket_length s)

theorem witness_BuiltPacketParses :
    SigningKey listedState [] ∧ exec .build listedState = .next (afterBuild listedState) ∧ (afterBuild listedState).status.ok = true ∧
      ([] : List Byte).length = listedState.gsidLen.toNat ∧ ([] : List Byte).length = listedState.cmdstrLen.toNat ∧
      (∀ k < (afterBuild listedState).outLen.toNat, Memory.read (reloaded listedState).mem (0x60000 + k)
        = Memory.read (afterBuild listedState).mem (0x40000 + k)) ∧
      (reloaded listedState).inLen.toNat = (afterBuild listedState).outLen.toNat ∧
      (reloaded listedState).ctrl.utf8Check = listedState.ctrl.utf8Check := by
  refine ⟨emptySigningKey rfl, build_listed, rfl, rfl, rfl, reloaded_agrees _, ?_, rfl⟩
  rw [afterBuild_outLen]
  rfl

/-- A state with another allow-list table. -/
def withAllow (u : State) (t : Vector AllowCtl 16) : State := { u with allowCtl := t }

theorem withAllow_mem (u : State) (t : Vector AllowCtl 16) : (withAllow u t).mem = u.mem := rfl

/-- The empty ID listed, and the same state with no valid entry; the other hypotheses as for the parse. -/
theorem witness_BuiltPacketInspected :
    VerificationKey (reloaded listedState) [] ∧ (reloaded listedState).ctrl.lock = true ∧
    inAllowList (reloaded listedState) [] = true ∧
    ∃ u : State, VerificationKey u [] ∧ u.ctrl.lock = true ∧ inAllowList u [] = false ∧ u.inLen.toNat = (afterBuild listedState).outLen.toNat ∧
      u.ctrl.utf8Check = listedState.ctrl.utf8Check ∧
      ∀ k < (afterBuild listedState).outLen.toNat, Memory.read u.mem (0x60000 + k)
        = Memory.read (afterBuild listedState).mem (0x40000 + k) := by
  refine ⟨emptyVerificationKey rfl, rfl, ?_, withAllow (reloaded listedState) State.reset.allowCtl,
    emptyVerificationKey rfl, rfl, unlisted_empty rfl, ?_, rfl, ?_⟩
  · simp only [inAllowList, List.any_eq_true]
    exact ⟨1, List.mem_finRange 1, rfl⟩
  · rw [afterBuild_outLen]
    rfl
  · rw [withAllow_mem]
    exact reloaded_agrees _

/-! ### Witnesses: the clock and the bus -/

theorem witness_TickAdvancesTime :
    State.reset.ctrl.timeRun = false ∧
    ({ State.reset with ctrl := { Ctrl.reset with timeRun := true }, time := 0xFFFFFFFFFFFFFFFF } : State).ctrl.timeRun
      = true := by decide

theorem witness_TimeWritePairCommits : State.reset.status.busy = false := by decide

/-- A misaligned offset, a narrow transfer and a partial strobe, at the ends of the aperture. -/
theorem witness_MalformedTransfersDoNothing :
    (0x7FFFF < 0x80000 ∧ 0x7FFFF % 4 ≠ 0) ∧ ((0x00000 : Nat) < 0x80000 ∧ Width.half ≠ .word) ∧
    ((0x7FFFC : Nat) < 0x80000 ∧ (0x7#4 : BitVec 4) ≠ 0xF) := by decide

/-- An operation in flight, with turns of the HOST and TICK listed. -/
def busyState : State :=
  { State.reset with
    status := Status.issued
    opl := 0x04
    script := [.tick, .host (writeAt 0x7FFFC 1), .host (readAt 0x00C)] }

theorem witness_BusyInterlock :
    busyState.status.busy = true ∧ (0x7FFFC : Nat) < 0x80000 ∧ 0x7FFFC % 4 = 0 ∧ (0x7FFFC : Nat) ≠ 0x010 ∧
    (0x7FFFC : Nat) ≠ 0x014 ∧ 3 ≤ busyState.script.length ∧ ∀ e ∈ busyState.script, e ≠ .engine ∧ e ≠ .reset := by
  decide

/-- The first and the last offset of each range of the lock-frozen set; both values of LOCK. -/
theorem witness_LockedWritesDropped :
    (State.reset.status.busy = false ∧ State.reset.ctrl.lock = false) ∧ operational.ctrl.lock = true ∧ operational.status.busy = false ∧
    ∀ off ∈ [0x018, 0x044, 0x048, 0x100, 0x13C, 0x400, 0x4FC, 0x500, 0x5FC, 0x1000, 0x1FFC],
      off % 4 = 0 ∧ inFrozenSet off = true := by decide

/-- The lengths 257, 511 and 256, and the ends of the ALLOW_CTL bank. -/
theorem witness_LengthWritesChecked :
    State.reset.ctrl.lock = false ∧ State.reset.status.busy = false ∧ 256 < (257#32).toNat % 512 ∧
    256 < (0xFFFFFFFF#32).toNat % 512 ∧ (0x80000100#32).toNat % 512 ≤ 256 ∧
    (0x100 ≤ (0x13C : Nat) ∧ (0x13C : Nat) < 0x140 ∧ 0x13C % 4 = 0) := by decide

/-- The first and the last offset of each range of the two sets. -/
theorem witness_ReservedSpaceIsInert :
    State.reset.status.busy = false ∧
    (∀ off ∈ [0x000, 0x00C, 0x01C, 0x02C, 0x038, 0x04C, 0x050, 0x07C, 0x0A0, 0x0FC, 0x140, 0x3FC, 0x600, 0xFFC, 0x2000,
        0xFFFC, 0x30000, 0x40000, 0x5FFFC, 0x60000 + 65544, 0x7FFFC], off % 4 = 0 ∧ inIgnoredSet off = true) ∧
    ∀ off ∈ [0x008, 0x04C, 0x07C, 0x0A0, 0x0FC, 0x140, 0x400, 0x5FC, 0x600, 0xFFC, 0x2000, 0xFFFC, 0x30000, 0x3FFFC,
        0x40000 + 65544, 0x5FFFC, 0x60000 + 65544, 0x7FFFC], off % 4 = 0 ∧ inZeroSet off = true := by decide

/-- The ends of the writable windows, and the key windows and ALLOW_DATA in the configuration phase. -/
theorem witness_WindowLaneOrder :
    State.reset.status.busy = false ∧ State.reset.ctrl.lock = false ∧ Memory.wf State.reset.mem ∧
    ((0x10000 ≤ (0x2FFFC : Nat) ∧ (0x2FFFC : Nat) < 0x30000)) ∧
    (0x60000 ≤ (0x60000 + 65540 : Nat) ∧ (0x60000 + 65540 : Nat) < 0x60000 + 65544 ∧ (0x60000 + 65540) % 4 = 0) ∧
    (0x1000 ≤ (0x1FFC : Nat) ∧ (0x1FFC : Nat) < 0x2000) ∧ (0x400 ≤ (0x5FC : Nat) ∧ (0x5FC : Nat) < 0x600) :=
  ⟨rfl, rfl, wf_reset, by decide, by decide, by decide, by decide⟩

/-- The ends of the aperture, of the register words, of the two banks and of the windows; a written lane. -/
theorem witness_ReadsHaveNoSideEffect :
    (0x000, 0x50434601) ∈ registerWords State.reset ∧ (0x078, 0) ∈ registerWords State.reset ∧
    (0x09C : Nat) = 0x080 + 4 * (7 : Fin 8).val ∧ (0x13C : Nat) = 0x100 + 4 * (15 : Fin 16).val ∧
    (0x7FFFC : Nat) < 0x80000 ∧ 0x7FFFC % 4 = 0 ∧ isBuffer 0x10000 = true ∧ isBuffer (0x60000 + 65540) = true ∧
    Memory.read (withInput State.reset [0x61]).mem (0x60000 + 0) = some 0x61 := by decide

/-- Two memories that differ in the first byte of KEY_S alone. -/
theorem witness_KeysAreNeverReadable :
    Memory.read (Memory.write State.reset.mem 0x400 0x6B) 0x400 ≠ Memory.read State.reset.mem 0x400 ∧
    ∀ a, ¬ (0x400 ≤ a ∧ a < 0x600) →
      Memory.read (Memory.write State.reset.mem 0x400 0x6B) a = Memory.read State.reset.mem a :=
  ⟨by decide, fun _ ha => read_write_other _ _ (by omega)⟩

/-- A run of one dropped write in the operational phase. -/
theorem witness_LockedConfigurationIsFixed :
    ∃ s t : State, s.ctrl.lock = true ∧ Event.reset ∉ s.script ∧ Host.Core.run core 1 s = .next t ∧
      t.irqStatus.wrErr = true :=
  ⟨{ operational with script := [.host (writeAt 0x018 0x2A)] }, _, rfl, by decide, run_one rfl, rfl⟩

/-- A state other than reset, with a packet written and reported, an operation in flight and keys set, that has the
invariant; and its step. -/
def runningState : State :=
  { withInput operational [0x61] with
    status := Status.issued
    opl := 0x01
    keySLen := 256
    parsed := { ParsedRegs.zero with valid := true, idOff := 16, cmdOff := 18, rawLen := 18, sigOff := 18 } }

theorem witness_StepKeepsInvariant : Inv runningState ∧ ∃ t, step runningState = .next t := by
  refine ⟨⟨by decide +kernel, fun _ => ⟨.macSign, by decide⟩, .inr (.inl rfl), ⟨fun h => ?_, fun _ => by decide⟩,
    ⟨.inl rfl, fun k hk => absurd hk (by simp [runningState, withInput, operational, State.reset])⟩, by decide,
    by decide⟩, ?_⟩
  · cases h
  · obtain ⟨m, hm⟩ : ∃ m, message runningState = some m := ⟨[0x61], by decide +kernel⟩
    have hx : execMacSign runningState
        = .next (finish (writeTag runningState (Config.macFn (keyS runningState) m)) .ok .none) := by
      unfold execMacSign
      rw [if_neg (by decide), if_neg (by decide), hm]
    exact ⟨_, (step_of_empty rfl).trans ((engineStep_busy (i := .macSign) rfl rfl).trans hx)⟩

/-- An operation in flight behind two turns of other agents. -/
theorem witness_OperationInFlightCompletes :
    busyState.status.busy = true ∧ fetch busyState = some .parse ∧ InputsWritten .parse busyState ∧
    Event.reset ∉ busyState.script := by
  refine ⟨rfl, by decide, ?_, by decide⟩
  simp only [InputsWritten]
  decide

end Tests
end Sys2Proof
end

section
/-! SUPPORT. The laws the statements of 10_state.md share: the fields the invariant speaks of, one aligned bus transfer
as one step, and where each register, bank and window lies. -/

namespace Sys2Proof
namespace Machine

/-! ### What the invariant depends on -/

/-- `t` has the eight fields of `s` that `Inv` speaks of. For an update that leaves them all, the term is `{}`. -/
structure InvFrame (s t : State) : Prop where
  mem : t.mem = s.mem := by rfl
  opl : t.opl = s.opl := by rfl
  status : t.status = s.status := by rfl
  parsed : t.parsed = s.parsed := by rfl
  outLen : t.outLen = s.outLen := by rfl
  keySLen : t.keySLen = s.keySLen := by rfl
  keyVLen : t.keyVLen = s.keyVLen := by rfl
  allowCtl : t.allowCtl = s.allowCtl := by rfl

/-- The invariant depends on those fields alone. -/
theorem Inv.congr {s t : State} (h : Inv s) (f : InvFrame s t) : Inv t where
  mem := f.mem ▸ h.mem
  latch hb := by
    rw [f.status] at hb
    simpa only [fetch, f.opl] using h.latch hb
  status := f.status ▸ h.status
  parsed := f.parsed ▸ h.parsed
  out := by
    unfold OutLegal
    rw [f.mem, f.outLen]
    exact h.out
  keys := by
    rw [f.keySLen, f.keyVLen]
    exact h.keys
  allow := by
    rw [f.allowCtl]
    exact h.allow

/-! ### One aligned transfer -/

/-- A full-word aligned read in the aperture is one step, busy or not. -/
theorem step_readAt (s : State) (rest : List Event) {off : Nat} (h : off < 0x80000) (ha : off % 4 = 0) :
    step { s with script := .host (readAt off) :: rest } = .next (busRead { s with script := rest } off) := by
  rw [step_of_host rfl, hostStep_readAt _ h ha]

/-- A full-word aligned write in the aperture is one step, busy or not. -/
theorem step_writeAt (s : State) (rest : List Event) (w : Word) {off : Nat} (h : off < 0x80000) (ha : off % 4 = 0) :
    step { s with script := .host (writeAt off w) :: rest } =
      .next { writeEffect { s with script := rest } off w with resp := some (.writeDone false) } := by
  rw [step_of_host rfl, hostStep_writeAt _ w h ha]
  rfl

/-- While idle, a full-word aligned write has the effect of the target `t` that its offset names. -/
theorem step_writeAt_idle {s : State} (hb : s.status.busy = false) (rest : List Event) (w : Word) {off : Nat}
    {t : Target} (ht : targetAt off = t) (h : off < 0x80000) (ha : off % 4 = 0) :
    step { s with script := .host (writeAt off w) :: rest } =
      .next { writeIdle { s with script := rest } off w t with resp := some (.writeDone false) } := by
  rw [step_writeAt s rest w h ha, writeEffect_idle (s := { s with script := rest }) hb, ht]

/-! ### The register map -/

/-- Every register with an offset of its own is where the map puts it (R33). -/
theorem targetAt_registerMap : ∀ r ∈ registerMap, targetAt r.1 = r.2 := by decide

/-- Only offset 0x020 names TIME_LO. -/
theorem targetAt_eq_timeLo_iff (off : Nat) : targetAt off = .timeLo ↔ off = 0x020 := by
  by_cases hl : off < 0x080
  · have low : ∀ off < 0x080, targetAt off = .timeLo ↔ off = 0x020 := by decide +kernel
    exact low off hl
  · rw [targetAt_window (by omega), windowAt]
    constructor
    · intro h
      repeat' split at h
      all_goals cases h
    · omega

/-- All storage, as ranges of offsets (R70, R71, R73, R101). -/
theorem isStorage_iff (a : Nat) :
    isStorage a = true ↔ (0x400 ≤ a ∧ a < 0x600 ∨ 0x1000 ≤ a ∧ a < 0x2000) ∨
      (0x10000 ≤ a ∧ a < 0x30000 ∨ 0x40000 ≤ a ∧ a < 0x40000 + 65544 ∨ 0x60000 ≤ a ∧ a < 0x60000 + 65544) := by
  rw [isStorage, Bool.or_eq_true, isStore_iff, isBuffer_iff]

/-- Where each bank and window lies, and what is left as reserved space (R33, R53, R101, R106, R107). -/
theorem windowAt_cases (off : Nat) :
    (∃ i : Fin 8, windowAt off = .tag i ∧ 0x080 ≤ off ∧ off < 0x0A0) ∨
    (∃ i : Fin 16, windowAt off = .allowCtl i ∧ 0x100 ≤ off ∧ off < 0x140) ∨
    (windowAt off = .keyS ∧ 0x400 ≤ off ∧ off < 0x500) ∨
    (windowAt off = .keyV ∧ 0x500 ≤ off ∧ off < 0x600) ∨
    (windowAt off = .allowData ∧ 0x1000 ≤ off ∧ off < 0x2000) ∨
    (∃ b : BufId, windowAt off = .buf b ∧ b.base ≤ off ∧ off < b.base + b.cap) ∨
    (windowAt off = .reserved ∧ isStorage off = false ∧ ¬ (0x080 ≤ off ∧ off < 0x0A0) ∧
      ¬ (0x100 ≤ off ∧ off < 0x140)) := by
  unfold windowAt
  split
  · next h => exact .inl ⟨_, rfl, h⟩
  next hTag =>
  split
  · next h => exact .inr (.inl ⟨_, rfl, h⟩)
  next hCtl =>
  split
  · next h => exact .inr (.inr (.inl ⟨rfl, h⟩))
  next hKeyS =>
  split
  · next h => exact .inr (.inr (.inr (.inl ⟨rfl, h⟩)))
  next hKeyV =>
  split
  · next h => exact .inr (.inr (.inr (.inr (.inl ⟨rfl, h⟩))))
  next hData =>
  have buf : ∀ b : BufId, b.has off = true → ∃ b' : BufId, Target.buf b = .buf b' ∧ b'.base ≤ off ∧
      off < b'.base + b'.cap := fun b h => ⟨b, rfl, (has_iff b off).mp h⟩
  split
  · next h => exact .inr (.inr (.inr (.inr (.inr (.inl (buf _ h))))))
  next hGsid =>
  split
  · next h => exact .inr (.inr (.inr (.inr (.inr (.inl (buf _ h))))))
  next hCmd =>
  split
  · next h => exact .inr (.inr (.inr (.inr (.inr (.inl (buf _ h))))))
  next hOut =>
  split
  · next h => exact .inr (.inr (.inr (.inr (.inr (.inl (buf _ h))))))
  next hIn =>
  refine .inr (.inr (.inr (.inr (.inr (.inr ⟨rfl, ?_, hTag, hCtl⟩)))))
  have hst : isStore off = false := by
    rw [← Bool.not_eq_true, isStore_iff]
    omega
  simp [isStorage, isBuffer, hst, hGsid, hCmd, hOut, hIn]

end Machine
end Sys2Proof
end

section
/-! SUPPORT. The invariant (10_state.md): the reset state has it, and one rule per state operation says that the
operation keeps it; every step is assembled from these. -/

namespace Sys2Proof
namespace Machine

/-! ### The invariant's parts -/

/-! The event kind goes with the result code (R172, R290). -/

theorem eventFits_none (code : ResultCode) : eventFits code .none := .inl rfl

theorem eventFits_decodeFailure {code : ResultCode} (h : classOf code = 1) : eventFits code .decodeFailure :=
  .inr (.inl ⟨rfl, h⟩)

theorem eventFits_unauthorizedGs : eventFits .notAuthorized .unauthorizedGs := .inr (.inr (.inl ⟨rfl, rfl⟩))

theorem eventFits_authFailed : eventFits .authFailed .authFailed := .inr (.inr (.inr (.inl ⟨rfl, rfl⟩)))

theorem eventFits_accepted : eventFits .ok .accepted := .inr (.inr (.inr (.inr ⟨rfl, rfl⟩)))

theorem parsedLegal_zero : ParsedLegal ParsedRegs.zero := ⟨fun _ => rfl, fun h => absurd h (by decide)⟩

/-- The offsets of a successful parse fit their 17 bits (R65, R67, R69). -/
theorem parsedLegal_parsedOf (r : ParsedFields) : ParsedLegal (parsedOf r) := by
  refine ⟨fun h => absurd h (by simp [parsedOf]), fun _ => ⟨rfl, ?_, rfl⟩⟩
  have hid := r.idLen.isLt
  simp only [parsedOf, BitVec.toNat_ofNat]
  omega

/-- What BUSY = 1 rests on: a word that decodes leaves a legal opcode in OPL (R80, R140). -/
theorem fetch_of_decode {s : State} {w : Word} {i : Instr} (h : decode w = .ok i) (ho : s.opl = opcodeOf w) :
    fetch s = some i := by
  have hop : decodeOpcode s.opl = some i := by
    unfold decode at h
    split at h
    · split at h
      · next j hj =>
        injection h with h
        rw [ho, hj, h]
      · cases h
    · cases h
  have hrsvd : rsvdOf (s.opl.setWidth 32) = 0 := by
    ext k hk
    simp only [rsvdOf, BitVec.getElem_extractLsb', BitVec.getLsbD_setWidth]
    simp
  have hopc : opcodeOf (s.opl.setWidth 32) = s.opl := by
    ext k hk
    simp only [opcodeOf, BitVec.getElem_extractLsb', BitVec.getLsbD_setWidth]
    simp
    grind
  unfold fetch decode
  rw [if_pos hrsvd, hopc, hop]

/-! ### One rule per state operation -/

theorem inv_finish {s : State} (h : Inv s) {code : ResultCode} {ev : EventKind} (hev : eventFits code ev) :
    Inv (finish s code ev) where
  mem := h.mem
  latch hb := by cases hb
  status := .inr (.inr ⟨code, ev, hev, rfl⟩)
  parsed := h.parsed
  out := h.out
  keys := h.keys
  allow := h.allow

theorem inv_dropWrite {s : State} (h : Inv s) : Inv (dropWrite s) := h.congr {}

theorem inv_copySource {s : State} (h : Inv s) : Inv (copySource s) := h.congr {}

theorem inv_writeTag {s : State} (h : Inv s) (v : Vector Byte 32) : Inv (writeTag s v) :=
  h.congr {}

theorem inv_writeParsed {s : State} (h : Inv s) (r : ParsedFields) : Inv (writeParsed s r) :=
  { mem := h.mem, latch := h.latch, status := h.status, parsed := parsedLegal_parsedOf r, out := h.out, keys := h.keys,
    allow := h.allow }

theorem inv_clearParsed {s : State} (h : Inv s) : Inv (clearParsed s) :=
  { mem := h.mem, latch := h.latch, status := h.status, parsed := parsedLegal_zero, out := h.out, keys := h.keys,
    allow := h.allow }

theorem inv_clearOutLen {s : State} (h : Inv s) : Inv (clearOutLen s) :=
  { mem := h.mem, latch := h.latch, status := h.status, parsed := h.parsed
    out := ⟨.inl rfl, fun k hk => absurd hk (Nat.not_lt_zero k)⟩
    keys := h.keys, allow := h.allow }

/-- A packet of a legal length fits OUT_BUF, and all of it is written (R46, R111). -/
theorem inv_writePacket {s : State} (h : Inv s) {p : List Byte} (hmin : Config.pktMin ≤ p.length)
    (hmax : p.length ≤ Config.pktMax) : Inv (writePacket s p) where
  mem := wf_bufWrite h.mem .out 0 p (by simp at hmax ⊢; omega)
  latch := h.latch
  status := h.status
  parsed := h.parsed
  out := by
    have hlen : (BitVec.ofNat 17 p.length).toNat = p.length := by
      simp only [BitVec.toNat_ofNat, Config.pktMax_eq] at hmax ⊢
      omega
    have hheld : Holds (bufWrite s.mem .out 0 p) BufId.out.base p :=
      holds_bufWrite s.mem .out p (by simp at hmax ⊢; omega)
    unfold OutLegal
    rw [writePacket_outLen, hlen, writePacket_mem]
    exact ⟨.inr ⟨hmin, hmax⟩, fun k hk => Option.isSome_iff_exists.mpr ⟨_, hheld k hk⟩⟩
  keys := h.keys
  allow := h.allow

/-- A word of storage is stored: no byte of OUT_BUF loses its value (R82, R104). -/
theorem inv_storeWord {s : State} (h : Inv s) {off : Nat} (w : Word) (hoff : ∀ k < 4, isStorage (off + k) = true) :
    Inv (storeWord s off w) where
  mem := wf_writeBytes h.mem off (laneBytes w) (by simpa using hoff)
  latch := h.latch
  status := h.status
  parsed := h.parsed
  out := by
    obtain ⟨hlen, hwritten⟩ := h.out
    refine ⟨hlen, fun k hk => ?_⟩
    have hcap : k < BufId.out.cap := by
      rw [storeWord_outLen] at hk
      simp only [cap_out, Config.pktMax_eq] at hlen ⊢
      rcases hlen with h0 | ⟨-, hmax⟩
      · rw [h0] at hk
        exact absurd hk (Nat.not_lt_zero k)
      · omega
    exact written_writeBytes s.mem off (laneBytes w) (isBuffer_of_lt .out hcap) (hwritten k hk)
  keys := h.keys
  allow := h.allow

theorem inv_issue {s : State} (h : Inv s) (w : Word) : Inv (issue s w) := by
  unfold issue
  split
  · next i hd =>
    exact
      { mem := h.mem, latch := fun _ => ⟨i, fetch_of_decode hd rfl⟩, status := .inr (.inl rfl), parsed := h.parsed
        out := h.out, keys := h.keys, allow := h.allow }
  · exact inv_finish h (eventFits_none _)

/-! ### The operations -/

/-- A packet BUILD assembles has a legal length (R161, R222). -/
theorem inv_builtPacket {s : State} (h : Inv s) {k g c : List Byte}
    (hfit : s.gsidLen.toNat + s.cmdstrLen.toNat ≤ Config.bodyMax) (hg : buildId s = some g) (hc : buildCmd s = some c) :
    Inv (writePacket s (signedPacket k s.apid s.seq s.tsLatch g c)) := by
  have hgl := (bufRead_eq_some.mp hg).1
  have hcl := (bufRead_eq_some.mp hc).1
  simp only [Config.bodyMax_eq] at hfit
  apply inv_writePacket h
  · simp
  · simp only [signedPacket_length, Config.pktMax_eq]
    omega

/-- Every completion keeps the invariant. -/
theorem inv_exec {i : Instr} {s t : State} (h : Inv s) (hx : exec i s = .next t) : Inv t := by
  cases i with
  | macSign =>
    obtain ⟨-, rfl⟩ | ⟨-, -, rfl⟩ | ⟨-, -, m, -, rfl⟩ := execMacSign_cases hx
    · exact inv_finish h (eventFits_none _)
    · exact inv_finish h (eventFits_none _)
    · exact inv_finish (inv_writeTag h _) (eventFits_none _)
  | macVerify =>
    obtain ⟨-, rfl⟩ | ⟨-, -, rfl⟩ | ⟨-, -, m, -, rfl⟩ := execMacVerify_cases hx
    all_goals exact inv_finish h (eventFits_none _)
  | build =>
    obtain ⟨-, rfl⟩ | ⟨-, -, rfl⟩ | ⟨-, hfit, g, c, hg, hc, ⟨-, -, rfl⟩ | ⟨-, -, -, rfl⟩ | ⟨-, -, rfl⟩⟩ :=
      execBuild_cases hx
    · exact inv_finish h (eventFits_none _)
    · exact inv_finish (inv_clearOutLen h) (eventFits_none _)
    · exact inv_finish (inv_clearOutLen h) (eventFits_none _)
    · exact inv_finish (inv_clearOutLen h) (eventFits_none _)
    · exact inv_finish (inv_builtPacket h hfit hg hc) (eventFits_none _)
  | parse =>
    obtain ⟨code, -, -, rfl⟩ | ⟨r, -, rfl⟩ := execParse_cases hx
    · exact inv_finish (inv_clearParsed h) (eventFits_none _)
    · exact inv_finish (inv_writeParsed h r) (eventFits_none _)
  | inspect =>
    obtain ⟨-, rfl⟩ | ⟨-, code, -, hcls, rfl⟩ | ⟨-, r, -, hi⟩ := execInspect_cases hx
    · exact inv_finish h (eventFits_none _)
    · exact inv_finish (inv_clearParsed (inv_copySource h)) (eventFits_decodeFailure hcls)
    · have hp := inv_writeParsed (inv_copySource h) r
      obtain ⟨g, -, ⟨-, rfl⟩ | ⟨-, m, tag, -, -, ⟨-, rfl⟩ | ⟨-, rfl⟩⟩⟩ := inspectParsed_cases hi
      · exact inv_finish hp eventFits_unauthorizedGs
      · exact inv_finish hp eventFits_accepted
      · exact inv_finish hp eventFits_authFailed

/-! ### The agents' turns -/

/-- The four bytes of an aligned word of a store or a buffer are all of that storage (R104). -/
theorem isStorage_word {off : Nat} (ha : off % 4 = 0) (h : isStorage off = true) {k : Nat} (hk : k < 4) :
    isStorage (off + k) = true := by
  rw [isStorage_iff] at h ⊢
  omega

theorem isStorage_of_targetAt_buf {off : Nat} {b : BufId} (ht : targetAt off = .buf b) : isStorage off = true := by
  have hhas : b.has off = true := (has_iff b off).mpr (targetAt_buf ht)
  cases b <;> simp [isStorage, isBuffer, hhas]

theorem isStorage_of_targetAt_store {off : Nat}
    (ht : targetAt off = .keyS ∨ targetAt off = .keyV ∨ targetAt off = .allowData) : isStorage off = true := by
  simp [isStorage, targetAt_store ht]

theorem inv_lockFrozen {s t : State} (hs : Inv s) (ht : Inv t) : Inv (lockFrozen s t) := by
  unfold lockFrozen
  split
  · exact inv_dropWrite hs
  · exact ht

/-- A length is checked before it is taken (R49, R50, R52): the accepted state needs the invariant only
at 256 or less. -/
theorem inv_lengthChecked {s t : State} {w : Word} (hs : Inv s) (ht : (w.extractLsb' 0 9).toNat ≤ 256 → Inv t) :
    Inv (lengthChecked s w t) := by
  unfold lengthChecked lengthIllegal
  split
  · exact inv_dropWrite hs
  · next hle => exact ht (by simpa using hle)

theorem inv_setAllowCtl {s : State} (h : Inv s) (i : Fin 16) {a : AllowCtl} (ha : a.len.toNat ≤ 256) :
    Inv { s with allowCtl := s.allowCtl.set i a } :=
  { mem := h.mem, latch := h.latch, status := h.status, parsed := h.parsed, out := h.out, keys := h.keys
    allow := fun j => by
      simp only [Fin.getElem_fin, Vector.getElem_set]
      split
      · exact ha
      · exact h.allow j }

/-- Every idle write keeps the invariant, whatever the target its offset names. -/
theorem inv_writeIdle {s : State} (h : Inv s) {off : Nat} (ha : off % 4 = 0) (w : Word) :
    Inv (writeIdle s off w (targetAt off)) := by
  have store : isStorage off = true → Inv (storeWord s off w) := fun hst =>
    inv_storeWord h w (fun k hk => isStorage_word ha hst hk)
  cases ht : targetAt off with
  | op => exact inv_issue h w
  | apid => exact inv_lockFrozen h (h.congr {})
  | keySLen => exact inv_lockFrozen h (inv_lengthChecked h fun hle => { h with keys := ⟨hle, h.keys.2⟩ })
  | keyVLen => exact inv_lockFrozen h (inv_lengthChecked h fun hle => { h with keys := ⟨h.keys.1, hle⟩ })
  | allowCtl i => exact inv_lockFrozen h (inv_lengthChecked h fun hle => inv_setAllowCtl h i hle)
  | keyS => exact inv_lockFrozen h (store (isStorage_of_targetAt_store (.inl ht)))
  | keyV => exact inv_lockFrozen h (store (isStorage_of_targetAt_store (.inr (.inl ht))))
  | allowData => exact inv_lockFrozen h (store (isStorage_of_targetAt_store (.inr (.inr ht))))
  | buf b =>
    cases b with
    | out => exact h
    | gsid | cmdstr | inb => exact store (isStorage_of_targetAt_buf ht)
  | _ => exact h.congr {}

/-- A bus transfer keeps the invariant. -/
theorem inv_hostStep {s : State} (h : Inv s) (x : Transfer) : Inv (hostStep s x) := by
  obtain ⟨-, hx⟩ | ⟨r, hx⟩ | ⟨off, -, -, -, hx⟩ | ⟨off, w, -, ha, -, hx⟩ := hostStep_cases s x
  · rw [hx]
    exact h
  · exact hx ▸ h.congr {}
  · exact hx ▸ h.congr {}
  · have heff : Inv (writeEffect s off w) := by
      unfold writeEffect
      split
      · exact inv_dropWrite h
      · exact inv_writeIdle h ha w
    exact hx ▸ heff.congr {}

theorem inv_engineStep {s t : State} (h : Inv s) (hx : engineStep s = .next t) : Inv t := by
  obtain ⟨-, rfl⟩ | ⟨-, i, -, he⟩ := engineStep_cases hx
  · exact h
  · exact inv_exec h he

theorem inv_tickStep {s : State} (h : Inv s) : Inv (tickStep s) := by
  unfold tickStep
  split
  · exact h.congr {}
  · exact h

theorem inv_reset : Inv State.reset where
  mem := wf_reset
  latch hb := by cases hb
  status := .inl rfl
  parsed := parsedLegal_zero
  out := ⟨.inl rfl, fun k hk => absurd hk (Nat.not_lt_zero k)⟩
  keys := by decide
  allow := by decide

/-- Settles O58: the one state every run starts in has the invariant. -/
theorem resetSatisfiesInvariant : Obligations.ResetSatisfiesInvariant := inv_reset

/-- Settles O59, agent by agent: each turn is made of state operations that keep the invariant. -/
theorem stepKeepsInvariant : Obligations.StepKeepsInvariant := by
  unfold Obligations.StepKeepsInvariant
  intro s t h hst
  have turn : ∀ rest, Inv { s with script := rest } := fun rest => h.congr {}
  obtain ⟨-, he⟩ | ⟨rest, -, he⟩ | ⟨x, rest, -, rfl⟩ | ⟨rest, -, rfl⟩ | ⟨rest, -, rfl⟩ := step_cases hst
  · exact inv_engineStep h he
  · exact inv_engineStep (turn rest) he
  · exact inv_hostStep (turn rest) x
  · exact inv_tickStep (turn rest)
  · exact inv_reset.congr {}

end Machine
end Sys2Proof
end

section
/-! SUPPORT. The statements of 10_state.md about the operations' outputs: the P_* group, the allow-list, ACCEPT and
RES_SRC. -/

namespace Sys2Proof
namespace Machine

/-! ### The P_* group -/

/-- The codes of class 1 are 0x01 to 0x0B (R170). -/
theorem structural_bits {code : ResultCode} (h : classOf code = 1) :
    1 ≤ code.bits.toNat ∧ code.bits.toNat ≤ 11 ∧ code ≠ .ok := by
  revert h
  cases code <;> decide

/-- Settles O31: both ways a PARSE can end, by its inversion lemma. -/
theorem failedParseLeavesNoFields : Obligations.FailedParseLeavesNoFields := by
  unfold Obligations.FailedParseLeavesNoFields
  intro s t h
  obtain ⟨code, -, hcls, rfl⟩ | ⟨r, -, rfl⟩ := execParse_cases h
  · obtain ⟨hlo, hhi, hne⟩ := structural_bits hcls
    exact ⟨by simp [hne, ParsedRegs.zero], fun _ => ⟨rfl, hlo, hhi, hcls⟩⟩
  · exact ⟨rfl, fun hok => by cases hok⟩

/-! ### The allow-list -/

/-- An entry of a legal length admits exactly the identifier its store bytes spell (R73, R74). -/
theorem allowEntry_iff {s : State} {g : List Byte} {i : Fin 16} (hlen : s.allowCtl[i].len.toNat ≤ 256) :
    allowEntry s g i = true ↔ s.allowCtl[i].valid = true ∧ s.allowCtl[i].len.toNat = g.length ∧
      Holds s.mem (0x1000 + 0x100 * i.val) g := by
  have hstore : ∀ k < s.allowCtl[i].len.toNat, isStore (allowBase i.val + k) = true := by
    intro k hk
    rw [isStore_iff, allowBase]
    omega
  simp only [allowEntry, Bool.and_eq_true, decide_eq_true_eq, and_assoc]
  constructor
  · rintro ⟨hv, hl, hid⟩
    exact ⟨hv, hl, (storeRead_iff hstore hl).mp hid⟩
  · rintro ⟨hv, hl, hheld⟩
    exact ⟨hv, hl, (storeRead_iff hstore hl).mpr hheld⟩

theorem inAllowList_iff {s : State} {g : List Byte} : inAllowList s g = true ↔ ∃ i, allowEntry s g i = true := by
  simp [inAllowList]

/-- An entry that admits an identifier is valid and has its length (R74). -/
theorem valid_length_of_allowEntry {s : State} {g : List Byte} {i : Fin 16} (h : allowEntry s g i = true) :
    s.allowCtl[i].valid = true ∧ s.allowCtl[i].len.toNat = g.length := by
  simp only [allowEntry, Bool.and_eq_true, decide_eq_true_eq] at h
  exact h.1

/-- Settles O34: membership is `allowEntry` of some entry, and an entry compares store bytes. -/
theorem allowListMembership : Obligations.AllowListMembership := by
  unfold Obligations.AllowListMembership
  refine fun s g => ⟨fun hlens => ⟨?_, fun hlong => ?_⟩, fun hinvalid => ?_⟩
  · rw [inAllowList_iff]
    exact exists_congr fun i => allowEntry_iff (hlens i)
  · rw [← Bool.not_eq_true, inAllowList_iff]
    rintro ⟨i, hi⟩
    have hl := (valid_length_of_allowEntry hi).2
    have := hlens i
    omega
  · rw [← Bool.not_eq_true, inAllowList_iff]
    rintro ⟨i, hi⟩
    exact Bool.false_ne_true ((hinvalid i).symm.trans (valid_length_of_allowEntry hi).1)

/-! ### ACCEPT -/

/-- `CTEq` is equality of byte strings (R201). -/
theorem ctEq_iff (a b : List Byte) : ctEq a b = true ↔ a = b := by
  unfold ctEq
  split
  · next hne => exact ⟨fun h => (by cases h), fun h => absurd (congrArg List.length h) hne⟩
  · next heq =>
    rw [decide_eq_true_eq, (ctLoop_spec a b 0 0 (not_not.mp heq)).1]
    exact ⟨fun h => h.2, fun h => ⟨rfl, h⟩⟩

/-- A tag verifies exactly when it is the MAC's (R202). -/
theorem verify_iff (m t k : List Byte) : verify m t k = true ↔ macTag k m = t := ctEq_iff _ _

/-- Only INSPECT's acceptance sets ACCEPT, and what it has established by then (R295). -/
theorem inspect_of_accept {i : Instr} {s t : State} (h : exec i s = .next t) (ha : t.status.accept = true) :
    i = .inspect ∧ s.ctrl.lock = true ∧ ∃ r g m tag, parseState s = .ok r ∧ t.parsed = parsedOf r ∧
      bufRead s.mem .inb 16 r.idLen.toNat = some g ∧ inAllowList s g = true ∧ bufRead s.mem .inb 0 r.rawLen = some m ∧
      bufRead s.mem .inb r.rawLen 32 = some tag ∧ verify m tag (keyV s) = true := by
  by_cases hi : i = .inspect
  · subst hi
    obtain ⟨-, rfl⟩ | ⟨-, code, -, -, rfl⟩ | ⟨hl, r, hp, hins⟩ := execInspect_cases h
    · cases ha
    · simp at ha
    · obtain ⟨g, hg, ⟨-, rfl⟩ | ⟨hin, m, tag, hm, ht, ⟨hv, rfl⟩ | ⟨-, rfl⟩⟩⟩ := inspectParsed_cases hins
      · cases ha
      · exact ⟨rfl, hl, r, g, m, tag, hp, rfl, hg, hin, hm, ht, hv⟩
      · cases ha
  · obtain ⟨u, code, ev, rfl, -, -, -, hev⟩ := exec_finishes h
    simp [hev hi] at ha

/-- A parse that yields fields fits: the tag starts where the unsigned packet ends (R251). -/
theorem rawLen_of_parseState {s : State} {r : ParsedFields} (h : parseState s = .ok r) :
    r.rawLen + 32 = s.inLen.toNat := by
  obtain ⟨b1, b2, b3, -, -, -, -, -, -, hspan⟩ := parseCore_ok h
  obtain ⟨_, _, _, _, _, hn, -, -, -, -, -, -, -, -, -, -, -, -, -, -, hraw⟩ := parseSpan_ok hspan
  rw [hraw]
  unfold inCount at hn ⊢
  omega

/-- PARSE of a packet that parses (R264). -/
theorem execParse_of_ok {s : State} {r : ParsedFields} (h : parseState s = .ok r) :
    execParse s = .next (finish (writeParsed s r) .ok .none) := by
  simp only [execParse, h]

/-- Settles O37: what an acceptance has established, read off the bytes of IN_BUF and the stores. -/
theorem acceptedMeansListedAndAuthentic : Obligations.AcceptedMeansListedAndAuthentic := by
  unfold Obligations.AcceptedMeansListedAndAuthentic
  intro i s t k hk h ha
  obtain ⟨hi, hl, r, g, raw, tag, hp, ht, hg, hin, hraw, htag, hv⟩ := inspect_of_accept h ha
  rw [bufRead_eq_some] at hg hraw htag
  obtain ⟨hglen, hgheld⟩ := hg
  obtain ⟨hrawlen, hrawheld⟩ := hraw
  rw [keyV_eq hk, verify_iff] at hv
  refine ⟨hi, hl, ⟨_, execParse_of_ok hp, rfl, ht.symm⟩, g, raw, ?_, hgheld, hin, ?_, hrawheld, ?_⟩
  · rw [ht, hglen]
    rfl
  · rw [hrawlen, rawLen_of_parseState hp]
  · rw [hrawlen]
    subst hv
    exact htag.2

/-! ### RES_SRC -/

/-- Every operation but INSPECT leaves RES_SRC (R298). -/
theorem resSrc_of_not_inspect {i : Instr} {s t : State} (h : exec i s = .next t) (hi : i ≠ .inspect) :
    t.resSrc = s.resSrc := by
  cases i with
  | macSign =>
    obtain ⟨-, rfl⟩ | ⟨-, -, rfl⟩ | ⟨-, -, m, -, rfl⟩ := execMacSign_cases h
    all_goals rfl
  | macVerify =>
    obtain ⟨-, rfl⟩ | ⟨-, -, rfl⟩ | ⟨-, -, m, -, rfl⟩ := execMacVerify_cases h
    all_goals rfl
  | build =>
    obtain ⟨-, rfl⟩ | ⟨-, -, rfl⟩ | ⟨-, -, g, c, -, -, ⟨-, -, rfl⟩ | ⟨-, -, -, rfl⟩ | ⟨-, -, rfl⟩⟩ := execBuild_cases h
    all_goals rfl
  | parse =>
    obtain ⟨code, -, -, rfl⟩ | ⟨r, -, rfl⟩ := execParse_cases h
    all_goals rfl
  | inspect => exact absurd rfl hi

/-- INSPECT past its lock check reports the source tag, whatever it decides (R298). -/
theorem resSrc_of_inspect {s t : State} (h : execInspect s = .next t) :
    t.resSrc = if s.ctrl.lock then s.srcTag else s.resSrc := by
  obtain ⟨hl, rfl⟩ | ⟨hl, code, -, -, rfl⟩ | ⟨hl, r, -, hins⟩ := execInspect_cases h
  · simp [hl]
  · simp [hl]
  · obtain ⟨g, -, ⟨-, rfl⟩ | ⟨-, m, tag, -, -, ⟨-, rfl⟩ | ⟨-, rfl⟩⟩⟩ := inspectParsed_cases hins
    all_goals simp [hl]

/-- Settles O40: the write by its target, the copy by what each operation can do. -/
theorem sourceTagReported : Obligations.SourceTagReported := by
  unfold Obligations.SourceTagReported
  refine ⟨fun s rest w hb => ?_, fun i s t h => ⟨?_, ?_, resSrc_of_not_inspect h⟩⟩
  · exact step_writeAt_idle hb rest w (t := .srcTag) rfl (by decide) (by decide)
  · rintro rfl hl
    rw [resSrc_of_inspect h, if_pos hl]
  · rintro rfl hl
    rw [resSrc_of_inspect h, if_neg (by simp [hl])]

end Machine
end Sys2Proof
end

section
/-! SUPPORT. The statements of 10_state.md about the flag registers, the clock and reset. -/

namespace Sys2Proof
namespace Machine

/-! ### The flag words -/

/-- The word of four flags with 28 reserved bits above them: the layout of CTRL, IRQ_STATUS and IRQ_ENABLE. -/
theorem fourFlags_bits (a b c d : Bool) :
    let w : Word := (0#28 ++ BitVec.ofBool d ++ BitVec.ofBool c ++ BitVec.ofBool b ++ BitVec.ofBool a : BitVec 32)
    w.getLsbD 0 = a ∧ w.getLsbD 1 = b ∧ w.getLsbD 2 = c ∧ w.getLsbD 3 = d ∧ w.extractLsb' 4 28 = 0 := by
  revert a b c d
  decide

theorem irqWord_bits (q : Irq) :
    q.word.getLsbD 0 = q.done ∧ q.word.getLsbD 1 = q.cmdErr ∧ q.word.getLsbD 2 = q.alert ∧
      q.word.getLsbD 3 = q.wrErr ∧ q.word.extractLsb' 4 28 = 0 := fourFlags_bits _ _ _ _

theorem ctrlWord_bits (c : Ctrl) :
    c.word.getLsbD 0 = c.lock ∧ c.word.getLsbD 1 = c.utf8Check ∧ c.word.getLsbD 2 = c.trailCheck ∧
      c.word.getLsbD 3 = c.timeRun ∧ c.word.extractLsb' 4 28 = 0 := fourFlags_bits _ _ _ _

/-- A field of a word is found where its bits are. -/
theorem extractLsb'_eq_of_getLsbD {w : Word} {lo n : Nat} {f : BitVec n}
    (h : ∀ k < n, w.getLsbD (lo + k) = f.getLsbD k) : w.extractLsb' lo n = f := by
  ext k hk
  rw [BitVec.getElem_extractLsb', h k hk, BitVec.getLsbD_eq_getElem hk]

/-- Settles O4: the words are concatenations, so each bit is looked up in its part. -/
theorem flagWordsLayout : Obligations.FlagWordsLayout := by
  unfold Obligations.FlagWordsLayout
  refine ⟨fun x => ⟨?_, ?_, ?_, ?_, extractLsb'_eq_of_getLsbD ?_, extractLsb'_eq_of_getLsbD ?_,
    extractLsb'_eq_of_getLsbD ?_, ?_, extractLsb'_eq_of_getLsbD ?_, ?_, extractLsb'_eq_of_getLsbD ?_,
    extractLsb'_eq_of_getLsbD ?_⟩, ctrlWord_bits, irqWord_bits⟩
  all_goals
    simp only [Status.word, BitVec.getLsbD_append]
    grind

/-! ### Interrupts -/

/-- A statement about every bit below 4 is one about the four bits. -/
theorem forall_lt_four {P : Nat → Prop} : (∀ i < 4, P i) ↔ P 0 ∧ P 1 ∧ P 2 ∧ P 3 := by
  constructor
  · exact fun h => ⟨h 0 (by decide), h 1 (by decide), h 2 (by decide), h 3 (by decide)⟩
  · rintro ⟨h0, h1, h2, h3⟩ i hi
    interval_cases i <;> assumption

/-- The level of irq in the bits a host reads (R328). -/
theorem irqLine_iff (s : State) :
    irqLine s = true ↔ ∃ i < 4, s.irqStatus.word.getLsbD i = true ∧ s.irqEnable.word.getLsbD i = true := by
  obtain ⟨s0, s1, s2, s3, -⟩ := irqWord_bits s.irqStatus
  obtain ⟨e0, e1, e2, e3, -⟩ := irqWord_bits s.irqEnable
  rw [← not_iff_not]
  push Not
  rw [forall_lt_four, s0, s1, s2, s3, e0, e1, e2, e3]
  simp [irqLine, and_assoc]

/-- A write to IRQ_STATUS clears exactly the bits written 1 (R37). -/
theorem acknowledged_bits (q : Irq) (w : Word) :
    ∀ i < 4, (q.acknowledged w).word.getLsbD i = (q.word.getLsbD i && !w.getLsbD i) := by
  obtain ⟨q0, q1, q2, q3, -⟩ := irqWord_bits q
  obtain ⟨a0, a1, a2, a3, -⟩ := irqWord_bits (q.acknowledged w)
  rw [forall_lt_four, q0, q1, q2, q3, a0, a1, a2, a3]
  exact ⟨rfl, rfl, rfl, rfl⟩

/-- A write to IRQ_ENABLE takes the low four bits (R38). -/
theorem irqOfWord_bits (w : Word) : ∀ i < 4, (Irq.ofWord w).word.getLsbD i = w.getLsbD i := by
  obtain ⟨w0, w1, w2, w3, -⟩ := irqWord_bits (Irq.ofWord w)
  exact forall_lt_four.mpr ⟨w0, w1, w2, w3⟩

/-- The busy interlock lets a write to IRQ_STATUS or IRQ_ENABLE through, so it has its target's effect in every state
(R116). -/
theorem step_writeAt_writableBusy (s : State) (rest : List Event) (w : Word) {off : Nat} {t : Target}
    (ht : targetAt off = t) (hw : writableBusy t = true) (h : off < 0x80000) (ha : off % 4 = 0) :
    step { s with script := .host (writeAt off w) :: rest } =
      .next { writeIdle { s with script := rest } off w t with resp := some (.writeDone false) } := by
  rw [step_writeAt s rest w h ha, writeEffect, ht, hw]
  simp

/-- Settles O44: the two IRQ registers are the targets the busy interlock lets through. -/
theorem interruptRegisters : Obligations.InterruptRegisters := by
  unfold Obligations.InterruptRegisters
  refine ⟨irqLine_iff, fun s rest w => ⟨s.irqStatus.acknowledged w, ?_, acknowledged_bits _ w⟩,
    fun s rest w => ⟨Irq.ofWord w, ?_, irqOfWord_bits w⟩⟩
  · exact step_writeAt_writableBusy s rest w (t := .irqStatus) rfl rfl (by decide) (by decide)
  · exact step_writeAt_writableBusy s rest w (t := .irqEnable) rfl rfl (by decide) (by decide)

/-! ### The clock -/

/-- Any number of ticks moves TIME alone (R340). -/
theorem run_ticks (s : State) (n : Nat) (rest : List Event) : ∃ time : BitVec 64,
    Host.Core.run core n { s with script := List.replicate n .tick ++ rest } =
      .next { s with script := rest, time := time } := by
  induction n generalizing s with
  | zero => exact ⟨s.time, rfl⟩
  | succ n ih =>
    have tick : ∃ time : BitVec 64, step { s with script := List.replicate (n + 1) .tick ++ rest } =
        .next { s with script := List.replicate n .tick ++ rest, time := time } := by
      rw [step_of_tick rfl]
      unfold tickStep
      split
      · exact ⟨_, rfl⟩
      · exact ⟨_, rfl⟩
    obtain ⟨time, ht⟩ := tick
    obtain ⟨time', hr⟩ := ih { s with time := time }
    exact ⟨time', run_succ.mpr ⟨_, ht, hr⟩⟩

/-- Settles O46: the TIME_LO read latches the high half in TIME_RHI, which no tick touches. -/
theorem timeReadPairIsConsistent : Obligations.TimeReadPairIsConsistent := by
  unfold Obligations.TimeReadPairIsConsistent
  intro s n
  have hlo := step_readAt s (List.replicate n .tick ++ [.host (readAt 0x024)]) (off := 0x020) (by decide) (by decide)
  obtain ⟨time, hticks⟩ := run_ticks (busRead s 0x020) n [.host (readAt 0x024)]
  have hhi := step_readAt { busRead s 0x020 with time := time } [] (off := 0x024) (by decide) (by decide)
  exact ⟨_, _, run_one hlo, rfl, run_last hticks hhi, rfl⟩

/-- Settles O47: TIME_WLO holds the low half until the TIME_HI write, and no tick touches it. -/
theorem timeWritePairCommits : Obligations.TimeWritePairCommits := by
  unfold Obligations.TimeWritePairCommits
  intro s n lo hi hb
  have hlo := step_writeAt_idle hb (List.replicate n .tick ++ [.host (writeAt 0x024 hi)]) lo (off := 0x020)
    (t := .timeLo) rfl (by decide) (by decide)
  obtain ⟨time, hticks⟩ := run_ticks { s with timeWlo := lo, resp := some (.writeDone false) } n
    [.host (writeAt 0x024 hi)]
  have hhi := step_writeAt_idle (s := { s with timeWlo := lo, resp := some (.writeDone false), time := time }) hb [] hi
    (off := 0x024) (t := .timeHi) rfl (by decide) (by decide)
  refine ⟨_, _, run_one hlo, rfl, run_last hticks hhi, ?_⟩
  have happ : (hi ++ lo : BitVec 64).toNat = hi.toNat * 2 ^ 32 + lo.toNat := by
    rw [BitVec.toNat_append, ← Nat.shiftLeft_add_eq_or_of_lt lo.isLt, Nat.shiftLeft_eq]
  exact happ

/-! ### Reset -/

theorem ctrlReset_word : Ctrl.reset.word = 0x00000006 := by decide

theorem statusZero_word : Status.zero.word = 0 := by decide

theorem irqZero_word : Irq.zero.word = 0 := by decide

/-- Settles O57: the RESET step answers `State.reset` but for the model's own fields. -/
theorem resetStateValues : Obligations.ResetStateValues := by
  unfold Obligations.ResetStateValues
  intro s rest
  refine ⟨{ State.reset with script := rest, draws := s.draws }, step_of_reset rfl, rfl, rfl, ctrlReset_word,
    statusZero_word, irqZero_word, irqZero_word, rfl, rfl, rfl, rfl, rfl, rfl, rfl,
    rfl, rfl, rfl, rfl, rfl, rfl, rfl, rfl, rfl, rfl, ?_, ?_, rfl, rfl, fun a ha => ?_, fun a ha => ?_⟩
  · exact fun i => by simp [State.reset]
  · exact fun i => by simp [State.reset, AllowCtl.word]
  · exact unlisted_store ha
  · exact unlisted_buffer ha

end Machine
end Sys2Proof
end

section
/-! SUPPORT. The statements of 10_state.md about the register map: locked and checked writes, space that ignores
writes, and what reads return and change. -/

namespace Sys2Proof
namespace Machine

/-! ### Writes while idle -/

/-- The targets whose writes go through `lockFrozen` (R54). -/
def Target.IsFrozen (t : Target) : Prop :=
  t = .apid ∨ t = .keySLen ∨ t = .keyVLen ∨ (∃ i, t = .allowCtl i) ∨ t = .keyS ∨ t = .keyV ∨ t = .allowData

/-- With LOCK = 1 an idle write to one of them is dropped. -/
theorem writeIdle_frozen {s : State} (hl : s.ctrl.lock = true) {t : Target} (ht : t.IsFrozen) (off : Nat) (w : Word) :
    writeIdle s off w t = dropWrite s := by
  obtain rfl | rfl | rfl | ⟨i, rfl⟩ | rfl | rfl | rfl := ht
  all_goals exact if_pos hl

/-- An offset of the lock-frozen set lies in the aperture. -/
theorem frozenSet_lt {off : Nat} (h : inFrozenSet off = true) : off < 0x80000 := by
  simp only [inFrozenSet, Bool.or_eq_true, Bool.and_eq_true, decide_eq_true_eq] at h
  omega

/-- The lock-frozen offsets name such targets (R54). -/
theorem targetAt_frozen {off : Nat} (h : inFrozenSet off = true) : (targetAt off).IsFrozen := by
  have hoff := h
  simp only [inFrozenSet, Bool.or_eq_true, Bool.and_eq_true, decide_eq_true_eq] at hoff
  by_cases hl : off < 0x080
  · obtain rfl | rfl | rfl : off = 0x018 ∨ off = 0x044 ∨ off = 0x048 := by omega
    · exact .inl rfl
    · exact .inr (.inl rfl)
    · exact .inr (.inr (.inl rfl))
  · rw [targetAt_window (by omega)]
    obtain ⟨i, -, hi⟩ | ⟨i, hi, -⟩ | ⟨hi, -⟩ | ⟨hi, -⟩ | ⟨hi, -⟩ | ⟨b, -, hb⟩ | ⟨-, hno, -, hctl⟩ := windowAt_cases off
    · omega
    · exact .inr (.inr (.inr (.inl ⟨i, hi⟩)))
    · exact .inr (.inr (.inr (.inr (.inl hi))))
    · exact .inr (.inr (.inr (.inr (.inr (.inl hi)))))
    · exact .inr (.inr (.inr (.inr (.inr (.inr hi)))))
    · cases b <;> simp at hb <;> omega
    · rw [← Bool.not_eq_true, isStorage_iff] at hno
      omega

/-- Settles O50: a frozen target drops the write, and CTRL takes what `Ctrl.written` says. -/
theorem lockedWritesDropped : Obligations.LockedWritesDropped := by
  unfold Obligations.LockedWritesDropped
  intro s rest w hb
  have ctrl := step_writeAt_idle hb rest w (off := 0x004) (t := .ctrl) rfl (by decide) (by decide)
  have apid := step_writeAt_idle hb rest w (off := 0x018) (t := .apid) rfl (by decide) (by decide)
  refine ⟨fun hl => ⟨fun off ha hoff => ?_, ?_⟩, fun hl => ⟨?_, ?_⟩⟩
  · rw [step_writeAt_idle hb rest w rfl (frozenSet_lt hoff) ha,
      writeIdle_frozen (s := { s with script := rest }) hl (targetAt_frozen hoff)]
    rfl
  · rw [ctrl, writeIdle, Ctrl.written, if_pos hl]
  · rw [ctrl, writeIdle, Ctrl.written, if_neg (by simp [hl])]
  · rw [apid, writeIdle, lockFrozen, if_neg (by simp [hl])]

/-! ### Lengths -/

/-- The low `n` bits of a word, as the number they hold. -/
theorem extractLsb'_zero_eq_ofNat (w : Word) {n m : Nat} (hm : m = 2 ^ n) :
    w.extractLsb' 0 n = BitVec.ofNat n (w.toNat % m) := by
  apply BitVec.eq_of_toNat_eq
  simp [hm]

theorem lengthIllegal_eq (w : Word) : lengthIllegal w = decide (256 < w.toNat % 512) := by
  simp [lengthIllegal]

/-- A length register takes a length its field check admits, while LOCK = 0 (R49, R50, R52). -/
theorem lockFrozen_lengthChecked_legal {s t : State} {w : Word} (hl : s.ctrl.lock = false) (hw : w.toNat % 512 ≤ 256) :
    lockFrozen s (lengthChecked s w t) = t := by
  rw [lockFrozen, if_neg (by simp [hl]), lengthChecked, lengthIllegal_eq, if_neg (by simpa using hw)]

/-- A length above 256 is dropped, whatever LOCK says (R49, R50, R52). -/
theorem lockFrozen_lengthChecked_illegal {s t : State} {w : Word} (hw : 256 < w.toNat % 512) :
    lockFrozen s (lengthChecked s w t) = dropWrite s := by
  rw [lengthChecked, lengthIllegal_eq, if_pos (by simpa using hw), lockFrozen, ite_self]

/-- The three kinds of checked length register, by their offsets (R49, R50, R52). -/
theorem targetAt_length {off : Nat} (h : off = 0x044 ∨ off = 0x048 ∨ (0x100 ≤ off ∧ off < 0x140 ∧ off % 4 = 0)) :
    targetAt off = .keySLen ∨ targetAt off = .keyVLen ∨ ∃ i, targetAt off = .allowCtl i := by
  obtain rfl | rfl | ⟨hlo, hhi, ha⟩ := h
  · exact .inl rfl
  · exact .inr (.inl rfl)
  · have hi := targetAt_allowCtl ⟨(off - 0x100) / 4, by omega⟩
    rw [show 0x100 + 4 * ((off - 0x100) / 4) = off by omega] at hi
    exact .inr (.inr ⟨_, hi⟩)

/-- Settles O51: the checked registers by `lengthChecked`, the free ones by their targets. -/
theorem lengthWritesChecked : Obligations.LengthWritesChecked := by
  unfold Obligations.LengthWritesChecked
  refine ⟨fun s rest w hl hb => ⟨fun hw off hoff => ?_, fun hw => ⟨?_, ?_, fun i => ?_⟩⟩,
    fun s rest w hb => ⟨?_, ?_, ?_, ?_⟩⟩
  · have hdrop : writeIdle { s with script := rest } off w (targetAt off) = dropWrite { s with script := rest } := by
      obtain ht | ht | ⟨i, ht⟩ := targetAt_length hoff
      all_goals
        rw [ht]
        exact lockFrozen_lengthChecked_illegal hw
    rw [step_writeAt_idle hb rest w rfl (by omega) (by omega), hdrop]
    rfl
  · rw [step_writeAt_idle hb rest w (t := .keySLen) rfl (by decide) (by decide), writeIdle,
      lockFrozen_lengthChecked_legal (s := { s with script := rest }) hl hw, extractLsb'_zero_eq_ofNat w (m := 512) rfl]
  · rw [step_writeAt_idle hb rest w (t := .keyVLen) rfl (by decide) (by decide), writeIdle,
      lockFrozen_lengthChecked_legal (s := { s with script := rest }) hl hw, extractLsb'_zero_eq_ofNat w (m := 512) rfl]
  · rw [step_writeAt_idle hb rest w (targetAt_allowCtl i) (by omega) (by omega), writeIdle,
      lockFrozen_lengthChecked_legal (s := { s with script := rest }) hl hw, extractLsb'_zero_eq_ofNat w (m := 512) rfl]
  · rw [← extractLsb'_zero_eq_ofNat w (m := 65536) rfl]
    exact step_writeAt_idle hb rest w (t := .gsidLen) rfl (by decide) (by decide)
  · rw [← extractLsb'_zero_eq_ofNat w (m := 65536) rfl]
    exact step_writeAt_idle hb rest w (t := .cmdstrLen) rfl (by decide) (by decide)
  · exact step_writeAt_idle hb rest w (t := .inLen) rfl (by decide) (by decide)
  · rw [← extractLsb'_zero_eq_ofNat w (m := 256) rfl]
    exact step_writeAt_idle hb rest w (t := .tagLen) rfl (by decide) (by decide)

/-! ### Space that ignores writes or reads 0 -/

/-- The targets an idle write to which is ignored: the read-only registers, OUT_BUF and reserved space (R53, R108). -/
def ignoringTargets : List Target :=
  [.id, .status, .seq, .resSrc, .outLen, .pValid, .pApid, .pSeq, .pTsLo, .pTsHi, .pIdOff, .pIdLen, .pCmdOff, .pCmdLen,
    .pRawLen, .pSigOff, .buf .out, .reserved]

theorem writeIdle_ignored (s : State) (off : Nat) (w : Word) : ∀ t ∈ ignoringTargets, writeIdle s off w t = s := by
  simp only [ignoringTargets, List.forall_mem_cons]
  exact ⟨rfl, rfl, rfl, rfl, rfl, rfl, rfl, rfl, rfl, rfl, rfl, rfl, rfl, rfl, rfl, rfl, rfl, rfl, by simp⟩

/-- The ignored offsets name such targets. -/
theorem targetAt_ignored {off : Nat} (ha : off % 4 = 0) (h : inIgnoredSet off = true) :
    off < 0x80000 ∧ targetAt off ∈ ignoringTargets := by
  by_cases hl : off < 0x080
  · have low : ∀ off < 0x080, off % 4 = 0 → inIgnoredSet off = true → targetAt off ∈ ignoringTargets := by
      decide +kernel
    exact ⟨by omega, low off hl ha h⟩
  · simp only [inIgnoredSet, Bool.or_eq_true, Bool.and_eq_true, decide_eq_true_eq] at h
    rw [targetAt_window (by omega)]
    refine ⟨by omega, ?_⟩
    obtain ⟨i, -, hi⟩ | ⟨i, -, hi⟩ | ⟨-, hi⟩ | ⟨-, hi⟩ | ⟨-, hi⟩ | ⟨b, hb, hi⟩ | ⟨hr, -⟩ := windowAt_cases off
    · omega
    · omega
    · omega
    · omega
    · omega
    · cases b with
      | out => simp [hb, ignoringTargets]
      | gsid | cmdstr | inb =>
        simp at hi
        omega
    · simp [hr, ignoringTargets]

/-- The targets a read of which gives 0 and draws nothing: OP, the key stores and reserved space (R35, R53, R72). -/
def zeroTargets : List Target := [.op, .keyS, .keyV, .reserved]

/-- The offsets that read 0 name such targets. -/
theorem targetAt_zero {off : Nat} (ha : off % 4 = 0) (h : inZeroSet off = true) :
    off < 0x80000 ∧ targetAt off ∈ zeroTargets := by
  by_cases hl : off < 0x080
  · have low : ∀ off < 0x080, off % 4 = 0 → inZeroSet off = true → targetAt off ∈ zeroTargets := by decide +kernel
    exact ⟨by omega, low off hl ha h⟩
  · simp only [inZeroSet, Bool.or_eq_true, Bool.and_eq_true, decide_eq_true_eq] at h
    rw [targetAt_window (by omega)]
    refine ⟨by omega, ?_⟩
    obtain ⟨i, -, hi⟩ | ⟨i, -, hi⟩ | ⟨hk, -⟩ | ⟨hk, -⟩ | ⟨-, hi⟩ | ⟨b, -, hi⟩ | ⟨hr, -⟩ := windowAt_cases off
    · omega
    · omega
    · simp [hk, zeroTargets]
    · simp [hk, zeroTargets]
    · omega
    · cases b <;> simp at hi <;> omega
    · simp [hr, zeroTargets]

/-- A read of a target that is neither TIME_LO nor a buffer is the response alone. -/
theorem busRead_quiet {s : State} {off : Nat} {t : Target} (ht : targetAt off = t) (htime : t ≠ .timeLo)
    (hbuf : ∀ b, t ≠ .buf b) : busRead s off = { s with resp := some (.readDone false (readValue s off t)) } := by
  have hdraws : drawsAt s off = 0 := by
    unfold drawsAt
    split
    · next b hb => exact absurd (ht.symm.trans hb) (hbuf b)
    · rfl
  rw [busRead, hdraws, ht, if_neg htime]
  rfl

theorem busRead_zero (s : State) {off : Nat} (h : targetAt off ∈ zeroTargets) :
    busRead s off = { s with resp := some (.readDone false 0) } := by
  simp only [zeroTargets, List.mem_cons, List.not_mem_nil, or_false] at h
  obtain ht | ht | ht | ht := h
  all_goals exact busRead_quiet ht (by decide) (by simp)

/-- Settles O52: the offsets' targets, of which the write is the identity and the read 0. -/
theorem reservedSpaceIsInert : Obligations.ReservedSpaceIsInert := by
  unfold Obligations.ReservedSpaceIsInert
  refine ⟨fun s rest off w hb ha h => ?_, fun s rest off ha h => ?_, fun s rest => ?_⟩
  · obtain ⟨hlt, ht⟩ := targetAt_ignored ha h
    rw [step_writeAt_idle hb rest w rfl hlt ha, writeIdle_ignored _ off w _ ht]
  · obtain ⟨hlt, ht⟩ := targetAt_zero ha h
    rw [step_readAt s rest hlt ha, busRead_zero _ ht]
  · rw [step_readAt s rest (by decide) (by decide), busRead_quiet (t := .id) rfl (by decide) (by simp)]
    rfl

/-! ### What a read returns -/

/-- `registerWords` is what the model reads at each register with an offset of its own. -/
theorem registerWords_eq (s : State) : registerWords s = registerMap.map (fun r => (r.1, readValue s r.1 r.2)) := rfl

/-- The word of a register with an offset of its own (R33). -/
theorem readValue_register {s : State} {off : Nat} {v : Word} (h : (off, v) ∈ registerWords s) :
    readValue s off (targetAt off) = v := by
  rw [registerWords_eq, List.mem_map] at h
  obtain ⟨r, hr, heq⟩ := h
  obtain ⟨rfl, rfl⟩ := Prod.mk.inj heq
  rw [targetAt_registerMap r hr]

/-- The fields of an ALLOW_CTL word (R52). -/
theorem allowCtlWord_fields (a : AllowCtl) :
    a.word.getLsbD 31 = a.valid ∧ a.word.extractLsb' 9 22 = 0 ∧ a.word.extractLsb' 0 9 = a.len := by
  refine ⟨?_, extractLsb'_eq_of_getLsbD ?_, extractLsb'_eq_of_getLsbD ?_⟩
  all_goals
    simp only [AllowCtl.word, BitVec.getLsbD_append]
    grind

/-- Buffer and ALLOW_DATA offsets read their four bytes (R104). -/
theorem readValue_window {s : State} {off : Nat} (h : isBuffer off = true ∨ 0x1000 ≤ off ∧ off < 0x2000) :
    readValue s off (targetAt off) = readWindow s off := by
  rw [isBuffer_iff] at h
  rw [targetAt_window (by omega)]
  obtain ⟨i, -, hi⟩ | ⟨i, -, hi⟩ | ⟨-, hi⟩ | ⟨-, hi⟩ | ⟨hd, -⟩ | ⟨b, hb, -⟩ | ⟨-, hno, -, -⟩ := windowAt_cases off
  · omega
  · omega
  · omega
  · omega
  · rw [hd]
    rfl
  · rw [hb]
    rfl
  · rw [← Bool.not_eq_true, isStorage_iff] at hno
    omega

/-- A lane of a read holds the byte that is there (R104, R112). -/
theorem readWindow_lane {s : State} {off i : Nat} (hi : i < 4) {b : Byte} (hb : Memory.read s.mem (off + i) = some b) :
    (readWindow s off).extractLsb' (8 * i) 8 = b := by
  have hlane : readLane s off i = b := by simp only [readLane, hb]
  have hword : ∀ i < 4, lane (readWindow s off) i = readLane s off i :=
    forall_lt_four.mpr ⟨lane_laneWord_0 _ _ _ _, lane_laneWord_1 _ _ _ _, lane_laneWord_2 _ _ _ _,
      lane_laneWord_3 _ _ _ _⟩
  exact (hword i hi).trans hlane

/-- Settles O54: the step is `busRead`, and its word is the target's, register by register and window by window. -/
theorem readsHaveNoSideEffect : Obligations.ReadsHaveNoSideEffect := by
  unfold Obligations.ReadsHaveNoSideEffect
  intro s rest off hlt ha
  refine ⟨readValue s off (targetAt off), s.draws + drawsAt s off, ?_, fun v hv => readValue_register hv, ?_, ?_, ?_⟩
  · rw [step_readAt s rest hlt ha, busRead]
    simp only [targetAt_eq_timeLo_iff]
    rfl
  · rintro i rfl
    rw [targetAt_tag i]
    rfl
  · rintro i rfl
    rw [targetAt_allowCtl i]
    exact allowCtlWord_fields _
  · intro hwin i hi b hb
    rw [readValue_window hwin]
    exact readWindow_lane hi hb

/-! ### The keys -/

/-- The word a byte window reads depends on its four bytes alone (R104). -/
theorem readWindow_congr {s : State} {m : Memory} {off : Nat}
    (h : ∀ i < 4, Memory.read m (off + i) = Memory.read s.mem (off + i)) :
    readWindow { s with mem := m } off = readWindow s off := by
  have hlane : ∀ i < 4, readLane { s with mem := m } off i = readLane s off i := by
    intro i hi
    simp only [readLane, h i hi]
  simp only [readWindow, hlane 0 (by decide), hlane 1 (by decide), hlane 2 (by decide), hlane 3 (by decide)]

/-- A window that reads memory lies past the key stores. -/
theorem readable_window {off : Nat} (h : targetAt off = .allowData ∨ ∃ b, targetAt off = .buf b) : 0x1000 ≤ off := by
  obtain h | ⟨b, h⟩ := h
  · by_cases hl : off < 0x080
    · have low : ∀ off < 0x080, targetAt off ≠ .allowData := by decide +kernel
      exact absurd h (low off hl)
    · rw [targetAt_window (by omega)] at h
      obtain ⟨i, hx, -⟩ | ⟨i, hx, -⟩ | ⟨hx, -⟩ | ⟨hx, -⟩ | ⟨-, hlo, -⟩ | ⟨b, hx, -⟩ | ⟨hx, -⟩ := windowAt_cases off
      case inr.inr.inr.inr.inl => exact hlo
      all_goals cases hx.symm.trans h
  · have hb := (targetAt_buf h).1
    cases b <;> simp at hb <;> omega

/-- A read neither depends on the key stores nor stores anything: a memory that differs only there stays beside
it (R72). -/
theorem busRead_congr {s : State} {m : Memory}
    (h : ∀ a, ¬ (0x400 ≤ a ∧ a < 0x600) → Memory.read m a = Memory.read s.mem a) (off : Nat) :
    busRead { s with mem := m } off = { busRead s off with mem := m } := by
  have hword : 0x1000 ≤ off → ∀ i < 4, Memory.read m (off + i) = Memory.read s.mem (off + i) :=
    fun hoff i _ => h _ (by omega)
  have hvalue : readValue { s with mem := m } off (targetAt off) = readValue s off (targetAt off) := by
    cases ht : targetAt off with
    | allowData => exact readWindow_congr (hword (readable_window (.inl ht)))
    | buf b => exact readWindow_congr (hword (readable_window (.inr ⟨b, ht⟩)))
    | _ => rfl
  have hdraws : drawsAt { s with mem := m } off = drawsAt s off := by
    unfold drawsAt
    split
    · next b ht => rw [bytes_congr (hword (readable_window (.inr ⟨b, ht⟩)))]
    · rfl
  rw [busRead, hvalue, hdraws]
  rfl

/-- A read of any offset and width: past the aperture nothing, malformed an ERROR, else `busRead` (R105, R106). -/
theorem hostStep_read (s : State) (off : Nat) (width : Width) :
    hostStep s (.read off width) =
      if Config.apertureLen ≤ off then s
      else if (Transfer.read off width).malformed then { s with resp := some (.readDone true 0) }
      else busRead s off := rfl

theorem hostStep_read_mem (s : State) (off : Nat) (width : Width) : (hostStep s (.read off width)).mem = s.mem := by
  rw [hostStep_read]
  split
  · rfl
  · split <;> rfl

theorem hostStep_read_congr {s : State} {m : Memory}
    (h : ∀ a, ¬ (0x400 ≤ a ∧ a < 0x600) → Memory.read m a = Memory.read s.mem a) (off : Nat) (width : Width) :
    hostStep { s with mem := m } (.read off width) = { hostStep s (.read off width) with mem := m } := by
  rw [hostStep_read, hostStep_read]
  by_cases hout : Config.apertureLen ≤ off
  · rw [if_pos hout, if_pos hout]
  · rw [if_neg hout, if_neg hout]
    by_cases hbad : (Transfer.read off width).malformed = true
    · rw [if_pos hbad, if_pos hbad]
    · rw [if_neg hbad, if_neg hbad, busRead_congr h]

/-- Settles O55: past the checks of R105 a read is `busRead`, which no byte of the key stores reaches. -/
theorem keysAreNeverReadable : Obligations.KeysAreNeverReadable := by
  unfold Obligations.KeysAreNeverReadable
  intro s m rest off width h
  refine ⟨hostStep { s with script := rest } (.read off width), step_of_host rfl, hostStep_read_mem _ off width, ?_⟩
  rw [step_of_host rfl]
  exact congrArg _ (hostStep_read_congr (s := { s with script := rest }) h off width)

end Machine
end Sys2Proof
end

section
/-! SUPPORT. The statements of 20_memory.md about the bus: malformed transfers, the busy interlock, and the byte lanes
of the windows. -/

namespace Sys2Proof
namespace Machine

/-! ### Malformed transfers -/

/-- A malformed read in the aperture is the ERROR response alone (R105). -/
theorem hostStep_read_malformed (s : State) {off : Nat} {width : Width} (hoff : off < 0x80000)
    (h : off % 4 ≠ 0 ∨ width ≠ .word) :
    hostStep s (.read off width) = { s with resp := some (.readDone true 0) } := by
  rw [hostStep_read, if_neg (Nat.not_le_of_lt hoff), if_pos (by simpa [Transfer.malformed] using h)]

/-- A write of any offset, width and strobes: past the aperture nothing, malformed an ERROR, else `busWrite` (R105,
R106). -/
theorem hostStep_write (s : State) (off : Nat) (width : Width) (strobes : BitVec 4) (w : Word) :
    hostStep s (.write off width strobes w) =
      if Config.apertureLen ≤ off then s
      else if (Transfer.write off width strobes w).malformed then { s with resp := some (.writeDone true) }
      else busWrite s off w := rfl

/-- A malformed write in the aperture is the ERROR response alone (R105). -/
theorem hostStep_write_malformed (s : State) {off : Nat} {width : Width} {strobes : BitVec 4} (w : Word)
    (hoff : off < 0x80000) (h : off % 4 ≠ 0 ∨ width ≠ .word ∨ strobes ≠ 0xF) :
    hostStep s (.write off width strobes w) = { s with resp := some (.writeDone true) } := by
  rw [hostStep_write, if_neg (Nat.not_le_of_lt hoff), if_pos (by simpa [Transfer.malformed, or_assoc] using h)]

/-- Settles O48: `hostStep` answers a malformed transfer before it looks at the target. -/
theorem malformedTransfersDoNothing : Obligations.MalformedTransfersDoNothing := by
  unfold Obligations.MalformedTransfersDoNothing
  intro s rest off width strobes w hoff
  refine ⟨fun h => ?_, fun h => ?_⟩
  · rw [step_of_host rfl, hostStep_read_malformed _ hoff h]
  · rw [step_of_host rfl, hostStep_write_malformed _ w hoff h]

/-! ### The busy interlock -/

theorem busyFrame_refl (s : State) : BusyFrame s s := rfl

theorem BusyFrame.trans {s t u : State} (hst : BusyFrame s t) (htu : BusyFrame t u) : BusyFrame s u := by
  unfold BusyFrame at *
  rw [htu, hst]

theorem BusyFrame.status {s t : State} (h : BusyFrame s t) : t.status = s.status := by
  unfold BusyFrame at h
  rw [h]

/-- While BUSY = 1 a write changes IRQ_STATUS and IRQ_ENABLE at most (R116). -/
theorem busyFrame_writeEffect {s : State} (hb : s.status.busy = true) (off : Nat) (w : Word) :
    BusyFrame s (writeEffect s off w) := by
  cases hw : writableBusy (targetAt off) with
  | false =>
    rw [writeEffect_busy hb off w hw]
    rfl
  | true =>
    rw [writeEffect, hw, Bool.not_true, Bool.and_false, if_neg Bool.false_ne_true]
    simp only [writableBusy, Bool.or_eq_true, decide_eq_true_eq] at hw
    obtain ht | ht := hw
    all_goals
      rw [ht]
      rfl

/-- The HOST's turn while BUSY = 1 (R116, R117). -/
theorem busyFrame_hostStep {s : State} (hb : s.status.busy = true) (x : Transfer) : BusyFrame s (hostStep s x) := by
  obtain ⟨-, hx⟩ | ⟨r, hx⟩ | ⟨off, -, -, -, hx⟩ | ⟨off, w, -, -, -, hx⟩ := hostStep_cases s x
  · rw [hx]
    exact busyFrame_refl s
  · rw [hx]
    rfl
  · rw [hx]
    rfl
  · rw [hx]
    exact (busyFrame_writeEffect hb off w).trans rfl

/-- The TICK's turn. -/
theorem busyFrame_tickStep (s : State) : BusyFrame s (tickStep s) := by
  unfold tickStep
  split
  · rfl
  · rfl

/-- One turn of the HOST or the TICK while BUSY = 1: the step takes it off the list and stays in the frame. -/
theorem step_busyFrame {s : State} {e : Event} {rest : List Event} (hb : s.status.busy = true)
    (hs : s.script = e :: rest) (he : e ≠ .engine ∧ e ≠ .reset) :
    ∃ u, step s = .next u ∧ u.script = rest ∧ BusyFrame s u := by
  have turn : BusyFrame s { s with script := rest } := rfl
  cases e with
  | engine => exact absurd rfl he.1
  | reset => exact absurd rfl he.2
  | host x =>
    exact ⟨_, step_of_host hs, (hostStep_seq_script _ x).2,
      turn.trans (busyFrame_hostStep (s := { s with script := rest }) hb x)⟩
  | tick =>
    have ht := step_of_tick hs
    exact ⟨_, ht, by rw [step_script ht, hs]; rfl, turn.trans (busyFrame_tickStep _)⟩

/-- Settles O49: the drop by `writeEffect_busy`; the frame turn by turn, by induction on the number of turns. -/
theorem busyInterlock : Obligations.BusyInterlock := by
  unfold Obligations.BusyInterlock
  refine ⟨fun s rest off w hb hlt ha h1 h2 => ?_, fun s k => ?_⟩
  · have hdrop := writeEffect_busy (s := { s with script := rest }) hb off w (not_writableBusy ha h1 h2)
    rw [step_writeAt s rest w hlt ha, hdrop]
    rfl
  · induction k generalizing s with
    | zero => exact fun _ _ _ => ⟨s, rfl, busyFrame_refl s⟩
    | succ k ih =>
      intro hb hk hturns
      cases hs : s.script with
      | nil => simp [hs] at hk
      | cons e rest =>
        rw [hs, List.forall_mem_cons] at hturns
        obtain ⟨u, hstep, hrest, hframe⟩ := step_busyFrame hb hs hturns.1
        obtain ⟨t, hrun, ht⟩ := ih u (by rw [hframe.status, hb]) (by simpa [hrest, hs] using hk)
          (by rw [hrest]; exact hturns.2)
        exact ⟨t, run_succ.mpr ⟨u, hstep, hrun⟩, hframe.trans ht⟩

/-! ### Byte lanes -/

/-- A string written to a memory of rising addresses is held there, in a store as in a buffer. -/
theorem holds_writeBytes_of_rising {m : Memory} (hm : m.Pairwise (fun x y => x.1 < y.1)) (a : Nat) (s : List Byte) :
    Holds (Memory.writeBytes m a s) a s := by
  induction s generalizing m a with
  | nil => exact fun k hk => absurd hk (Nat.not_lt_zero k)
  | cons b s ih =>
    intro k hk
    rw [Memory.writeBytes]
    cases k with
    | zero =>
      rw [read_writeBytes_other _ _ _ (by omega)]
      exact read_write_same hm a b
    | succ k =>
      have hrising : (Memory.write m a b).Pairwise (fun x y => x.1 < y.1) := by
        unfold Memory.write
        split
        · exact pairwise_erase hm a
        · exact pairwise_insert hm a b
      rw [show a + (k + 1) = a + 1 + k by omega]
      simpa using ih hrising (a + 1) k (by simpa using hk)

theorem laneBytes_getElem (w : Word) {i : Nat} (hi : i < (laneBytes w).length) : (laneBytes w)[i] = lane w i := by
  rw [laneBytes_length] at hi
  interval_cases i <;> rfl

/-- A word is held when each of its lanes is (R104). -/
theorem holds_laneBytes {m : Memory} {a : Nat} {w : Word} :
    Holds m a (laneBytes w) ↔ ∀ i < 4, Memory.read m (a + i) = some (lane w i) :=
  forall₂_congr fun i hi => by rw [laneBytes_getElem w hi]

/-- A byte window that holds a word reads it (R104). -/
theorem readWindow_of_holds {s : State} {off : Nat} {w : Word} (h : Holds s.mem off (laneBytes w)) :
    readWindow s off = w := by
  have lanes : ∀ i < 4, readLane s off i = lane w i := fun i hi => by simp only [readLane, holds_laneBytes.mp h i hi]
  rw [readWindow, lanes 0 (by decide), lanes 1 (by decide), lanes 2 (by decide), lanes 3 (by decide), laneWord_lanes]

/-- A read of a window whose four bytes were written draws nothing: it is the response alone (R104, R112). -/
theorem busRead_of_holds {s : State} {off : Nat} {w : Word} (hwin : isBuffer off = true ∨ 0x1000 ≤ off ∧ off < 0x2000)
    (h : Holds s.mem off (laneBytes w)) : busRead s off = { s with resp := some (.readDone false w) } := by
  have hdraws : drawsAt s off = 0 := by
    unfold drawsAt
    split
    · rw [bytes_eq_some.mpr ⟨laneBytes_length w, h⟩]
      rfl
    · rfl
  have htime : targetAt off ≠ .timeLo := by
    rw [Ne, targetAt_eq_timeLo_iff]
    rw [isBuffer_iff] at hwin
    omega
  rw [busRead, hdraws, if_neg htime, readValue_window hwin, readWindow_of_holds h]
  rfl

/-- The windows of GSID_BUF, CMDSTR_BUF and IN_BUF store what an idle write brings (R101, R108). -/
theorem writeIdle_buffer (s : State) {off : Nat} (w : Word)
    (h : 0x10000 ≤ off ∧ off < 0x30000 ∨ 0x60000 ≤ off ∧ off < 0x60000 + 65544) :
    writeIdle s off w (targetAt off) = storeWord s off w := by
  rw [targetAt_window (by omega)]
  obtain ⟨i, -, hi⟩ | ⟨i, -, hi⟩ | ⟨-, hi⟩ | ⟨-, hi⟩ | ⟨-, hi⟩ | ⟨b, hb, hi⟩ | ⟨-, hno, -, -⟩ := windowAt_cases off
  · omega
  · omega
  · omega
  · omega
  · omega
  · rw [hb]
    cases b with
    | out =>
      simp at hi
      omega
    | gsid | cmdstr | inb => rfl
  · rw [← Bool.not_eq_true, isStorage_iff] at hno
    omega

/-- The windows of KEY_S, KEY_V and ALLOW_DATA store what an idle write brings in the configuration phase (R54, R70,
R71, R73). -/
theorem writeIdle_store {s : State} (hl : s.ctrl.lock = false) {off : Nat} (w : Word) (h : isStore off = true) :
    writeIdle s off w (targetAt off) = storeWord s off w := by
  have accepted : lockFrozen s (storeWord s off w) = storeWord s off w := if_neg (by simp [hl])
  rw [isStore_iff] at h
  rw [targetAt_window (by omega)]
  obtain ⟨i, -, hi⟩ | ⟨i, -, hi⟩ | ⟨ht, -⟩ | ⟨ht, -⟩ | ⟨ht, -⟩ | ⟨b, -, hi⟩ | ⟨-, hno, -, -⟩ := windowAt_cases off
  · omega
  · omega
  · rw [ht]
    exact accepted
  · rw [ht]
    exact accepted
  · rw [ht]
    exact accepted
  · cases b <;> simp at hi <;> omega
  · rw [← Bool.not_eq_true, isStorage_iff] at hno
    omega

/-- Settles O53: an accepted write is `storeWord`, after which the window holds the word's lanes. -/
theorem windowLaneOrder : Obligations.WindowLaneOrder := by
  unfold Obligations.WindowLaneOrder
  refine ⟨fun s rest off w hb ha h => ?_, fun s rest i w hb => ?_⟩
  · obtain ⟨hlt, hwrite, hheld⟩ : off < 0x80000 ∧
        writeIdle { s with script := rest } off w (targetAt off) = storeWord { s with script := rest } off w ∧
        Holds (Memory.writeBytes s.mem off (laneBytes w)) off (laneBytes w) := by
      rw [← or_assoc] at h
      obtain hbuf | ⟨hstore, hl, hm⟩ := h
      · refine ⟨by omega, writeIdle_buffer _ w hbuf, holds_writeBytes _ _ _ fun k hk => ?_⟩
        rw [laneBytes_length] at hk
        rw [isBuffer_iff]
        omega
      · exact ⟨by omega, writeIdle_store (s := { s with script := rest }) hl w ((isStore_iff off).mpr hstore),
          holds_writeBytes_of_rising hm.1 _ _⟩
    refine ⟨Memory.writeBytes s.mem off (laneBytes w), ?_, holds_laneBytes.mp hheld, fun a hout => ?_, fun hlow => ?_⟩
    · rw [step_writeAt_idle hb rest w rfl hlt ha, hwrite]
      rfl
    · exact read_writeBytes_other _ _ _ (by rw [laneBytes_length]; omega)
    · have hwin : isBuffer off = true ∨ 0x1000 ≤ off ∧ off < 0x2000 := by
        rw [isBuffer_iff]
        omega
      have hread := step_readAt { s with mem := Memory.writeBytes s.mem off (laneBytes w) } rest hlt ha
      rwa [busRead_of_holds hwin hheld] at hread
  · exact step_writeAt_idle hb rest w (targetAt_tag i) (by omega) (by omega)

end Machine
end Sys2Proof
end

section
/-! SUPPORT. The statements of 20_memory.md about the ENGINE: it runs the operation OPL names, and its reads of buffer
bytes complete on written bytes and fault on unwritten ones. -/

namespace Sys2Proof
namespace Machine

/-! ### The operation OPL names -/

/-- The opcode of an operation is fetched as that operation (R80, R141). -/
theorem fetch_of_opl {s : State} {i : Instr} (h : s.opl = opcode i) : fetch s = some i := by
  have hword : decode (encode i) = .ok i ∧ opcodeOf (encode i) = opcode i := by
    cases i <;> decide
  exact fetch_of_decode hword.1 (h.trans hword.2.symm)

/-- Settles O7: both turns are the ENGINE's, which completes what it fetches. -/
theorem stepRunsFetchedOperation : Obligations.StepRunsFetchedOperation := by
  unfold Obligations.StepRunsFetchedOperation
  intro s rest i hb ho
  have engine : ∀ script, engineStep { s with script := script } = exec i { s with script := script } :=
    fun _ => engineStep_busy hb (fetch_of_opl ho)
  exact ⟨(step_of_engine rfl).trans (engine rest), (step_of_empty rfl).trans (engine [])⟩

/-! ### Reads of a buffer -/

/-- `MemRead` of a buffer fails exactly on a byte never written (R113). -/
theorem bufRead_eq_none {m : Memory} {b : BufId} {off n : Nat} :
    bufRead m b off n = none ↔ ∃ k < n, Memory.read m (b.base + off + k) = none := bytes_eq_none

/-- A read that fails does so in its first `k` bytes or in the rest (R12). -/
theorem bufRead_split {m : Memory} {b : BufId} {off k n : Nat} (h : bufRead m b off (k + n) = none) :
    bufRead m b off k = none ∨ bufRead m b (off + k) n = none := by
  simp only [bufRead_eq_none] at h ⊢
  obtain ⟨j, hj, hnone⟩ := h
  by_cases hlt : j < k
  · exact .inl ⟨j, hlt, hnone⟩
  · refine .inr ⟨j - k, by omega, ?_⟩
    rwa [show b.base + (off + k) + (j - k) = b.base + off + j by omega]

/-- A read within written bytes of IN_BUF does not fail. -/
theorem inbRead_ne_none {m : Memory} {n : Nat} (h : Written m 0x60000 n) {off k : Nat} (hk : off + k ≤ n) :
    bufRead m .inb off k ≠ none := by
  obtain ⟨s, hs⟩ := inbRead_of_written h hk
  simp [hs]

/-- The end of a string that IN_BUF holds from its start, as `MemRead` gives it. -/
theorem holds_inb_append {m : Memory} {p q : List Byte} (h : Holds m 0x60000 (p ++ q)) :
    Holds m 0x60000 p ∧ bufRead m .inb p.length q.length = some q := by
  rw [holds_append] at h
  exact ⟨h.1, inbRead_of_holds rfl h.2⟩

/-! ### How an operation can stop

An operation answers a next state or faults on a read that failed: one lemma each, the other half of its lemma
`_cases`. -/

/-- MAC_SIGN (R203). -/
theorem execMacSign_stops (s : State) : (∃ t, execMacSign s = .next t) ∨
    (execMacSign s = .fault .unwrittenInput ∧ s.ctrl.lock = true ∧ inCount s ≤ Config.inCap ∧ message s = none) := by
  unfold execMacSign
  split
  · exact .inl ⟨_, rfl⟩
  next hl =>
  split
  · exact .inl ⟨_, rfl⟩
  next hn =>
  split
  next hm => exact .inr ⟨rfl, by simpa using hl, Nat.le_of_not_lt hn, hm⟩
  · exact .inl ⟨_, rfl⟩

/-- MAC_VERIFY (R204). -/
theorem execMacVerify_stops (s : State) : (∃ t, execMacVerify s = .next t) ∨
    (execMacVerify s = .fault .unwrittenInput ∧ s.ctrl.lock = true ∧ inCount s ≤ Config.inCap ∧ message s = none) := by
  unfold execMacVerify
  split
  · exact .inl ⟨_, rfl⟩
  next hl =>
  split
  · exact .inl ⟨_, rfl⟩
  next hn =>
  split
  next hm => exact .inr ⟨rfl, by simpa using hl, Nat.le_of_not_lt hn, hm⟩
  · split <;> exact .inl ⟨_, rfl⟩

/-- BUILD (R220). -/
theorem execBuild_stops (s : State) : (∃ t, execBuild s = .next t) ∨
    (execBuild s = .fault .unwrittenInput ∧ s.ctrl.lock = true ∧
      s.gsidLen.toNat + s.cmdstrLen.toNat ≤ Config.bodyMax ∧ (buildId s = none ∨ buildCmd s = none)) := by
  unfold execBuild
  split
  · exact .inl ⟨_, rfl⟩
  next hl =>
  split
  · exact .inl ⟨_, rfl⟩
  next hn =>
  split
  · split
    · exact .inl ⟨_, rfl⟩
    · split <;> exact .inl ⟨_, rfl⟩
  next hno =>
    refine .inr ⟨rfl, by simpa using hl, Nat.le_of_not_lt hn, ?_⟩
    cases hg : buildId s with
    | none => exact .inl rfl
    | some g => exact .inr (Option.eq_none_iff_forall_ne_some.mpr fun c hc => hno g c hg hc)

/-- PARSE (R250). -/
theorem execParse_stops (s : State) : (∃ t, execParse s = .next t) ∨
    (execParse s = .fault .unwrittenInput ∧ parseState s = .unwritten) := by
  unfold execParse
  split
  next hp => exact .inr ⟨rfl, hp⟩
  · exact .inl ⟨_, rfl⟩
  · exact .inl ⟨_, rfl⟩

/-- Steps 2 to 4 of INSPECT (R290). -/
theorem inspectParsed_stops (s : State) (r : ParsedFields) : (∃ t, inspectParsed s r = .next t) ∨
    (inspectParsed s r = .fault .unwrittenInput ∧
      (bufRead s.mem .inb 16 r.idLen.toNat = none ∨ bufRead s.mem .inb 0 r.rawLen = none ∨
        bufRead s.mem .inb r.rawLen 32 = none)) := by
  unfold inspectParsed
  split
  next hg => exact .inr ⟨rfl, .inl hg⟩
  split
  · split
    · split <;> exact .inl ⟨_, rfl⟩
    next hno =>
      refine .inr ⟨rfl, .inr ?_⟩
      cases hm : bufRead s.mem .inb 0 r.rawLen with
      | none => exact .inl rfl
      | some m => exact .inr (Option.eq_none_iff_forall_ne_some.mpr fun t ht => hno m t hm ht)
  · exact .inl ⟨_, rfl⟩

/-- INSPECT (R290). -/
theorem execInspect_stops (s : State) : (∃ t, execInspect s = .next t) ∨
    (execInspect s = .fault .unwrittenInput ∧ s.ctrl.lock = true ∧
      (parseState s = .unwritten ∨ ∃ r, parseState s = .ok r ∧
        (bufRead s.mem .inb 16 r.idLen.toNat = none ∨ bufRead s.mem .inb 0 r.rawLen = none ∨
          bufRead s.mem .inb r.rawLen 32 = none))) := by
  unfold execInspect
  split
  · exact .inl ⟨_, rfl⟩
  next hl =>
  rw [Bool.not_eq_false] at hl
  split
  next hp => exact .inr ⟨rfl, hl, .inl hp⟩
  · exact .inl ⟨_, rfl⟩
  next r hp =>
    obtain hnext | ⟨hfault, hno⟩ := inspectParsed_stops (writeParsed (copySource s) r) r
    · exact .inl hnext
    · exact .inr ⟨hfault, hl, .inr ⟨r, hp, hno⟩⟩

/-! ### The reads of ParseCore, backwards -/

/-- Steps 5 to 9 fail for want of a byte only on a read within the packet (R251). -/
theorem parseSpan_unwritten {m : Memory} {n : Nat} {u t : Bool} {w1 w2 : BitVec 16}
    (h : parseSpan m n u t w1 w2 = .unwritten) : ∃ off k, off + k ≤ n ∧ bufRead m .inb off k = none := by
  simp only [parseSpan, Config.hdrLen_eq, Config.digestLen_eq, Config.secFixed_eq] at h
  split at h
  · cases h
  next h5 =>
  split at h
  next tsBytes idLenBytes hts hil =>
    split at h
    · cases h
    next h6 =>
    split at h
    next hg => exact ⟨_, _, by omega, hg⟩
    next g hg =>
    split at h
    · cases h
    split at h
    · cases h
    next h7b =>
    split at h
    next hcl => exact ⟨_, _, by omega, hcl⟩
    next cmdLenBytes hcl =>
    split at h
    · cases h
    next h7c =>
    split at h
    next hc => exact ⟨_, _, by omega, hc⟩
    next c hc =>
    split at h
    · cases h
    split at h
    · cases h
    · cases h
  next hno =>
    cases hts : bufRead m .inb 6 8 with
    | none => exact ⟨6, 8, by omega, hts⟩
    | some tsBytes =>
      cases hil : bufRead m .inb 14 2 with
      | none => exact ⟨14, 2, by omega, hil⟩
      | some idLenBytes => exact absurd hil (hno tsBytes idLenBytes hts)

/-- A packet of `packetBytes n` bytes, at least 6 of them once n passes step 1 (R111). -/
theorem six_le_packetBytes {n : Nat} (h : 38 ≤ n) : 6 ≤ packetBytes n := by
  unfold packetBytes
  split <;> omega

/-- A packet whose length agrees with its 16-bit packet_length fits IN_BUF (R153, R251). -/
theorem packetBytes_of_length {w : BitVec 16} {n : Nat} (h : w.toNat + 7 = n) : packetBytes n = n := by
  have hw := w.isLt
  exact if_pos (by simp; omega)

/-- ParseCore fails for want of a byte only past step 1 and on a read among `packetBytes n` (R111, R251). -/
theorem parseCore_unwritten {m : Memory} {n : Nat} {u t : Bool} (h : parseCore m n u t = .unwritten) :
    38 ≤ n ∧ ∃ off k, off + k ≤ packetBytes n ∧ bufRead m .inb off k = none := by
  simp only [parseCore, Config.parseMin_eq] at h
  split at h
  · cases h
  next hn =>
  have hn : 38 ≤ n := Nat.le_of_not_lt hn
  have h6 := six_le_packetBytes hn
  refine ⟨hn, ?_⟩
  split at h
  next h1 => exact ⟨0, 2, by omega, h1⟩
  split at h
  · cases h
  split at h
  next h2 => exact ⟨2, 2, by omega, h2⟩
  split at h
  · cases h
  split at h
  next h3 => exact ⟨4, 2, by omega, h3⟩
  next b3 _ =>
  split at h
  · cases h
  next hlen =>
  rw [packetBytes_of_length (not_not.mp hlen)]
  exact parseSpan_unwritten h

/-- A parse that yields fields has read a packet that fits IN_BUF, its ID among its bytes (R251). -/
theorem parseState_ok_reads {s : State} {r : ParsedFields} (h : parseState s = .ok r) :
    38 ≤ inCount s ∧ packetBytes (inCount s) = inCount s ∧ r.rawLen + 32 = inCount s ∧
      16 + r.idLen.toNat ≤ inCount s := by
  obtain ⟨b1, b2, b3, -, -, -, -, -, hlen, hspan⟩ := parseCore_ok h
  obtain ⟨_, _, _, _, _, hn, -, -, -, -, -, -, -, hfit, -, -, -, -, -, -, -⟩ := parseSpan_ok hspan
  exact ⟨by omega, packetBytes_of_length hlen, rawLen_of_parseState h, by omega⟩

/-- On written bytes a parse does not fail for want of one. -/
theorem parseState_ne_unwritten {s : State}
    (hw : Config.parseMin ≤ inCount s → Written s.mem BufId.inb.base (packetBytes (inCount s))) :
    parseState s ≠ .unwritten := by
  intro h
  obtain ⟨hn, off, k, hk, hnone⟩ := parseCore_unwritten h
  exact inbRead_ne_none (hw hn) hk hnone

/-- Settles O11: an operation that does not answer a next state has failed a read of its own input bytes. -/
theorem writtenInputsComplete : Obligations.WrittenInputsComplete := by
  unfold Obligations.WrittenInputsComplete
  intro i s hw
  cases i with
  | macSign =>
    refine (execMacSign_stops s).resolve_right ?_
    rintro ⟨-, hl, hn, hm⟩
    exact inbRead_ne_none (hw hl hn) (Nat.zero_add _).le hm
  | macVerify =>
    refine (execMacVerify_stops s).resolve_right ?_
    rintro ⟨-, hl, hn, hm⟩
    exact inbRead_ne_none (hw hl hn) (Nat.zero_add _).le hm
  | build =>
    refine (execBuild_stops s).resolve_right ?_
    rintro ⟨-, hl, hn, hno⟩
    obtain ⟨hid, hcmd⟩ := hw hl hn
    obtain ⟨g, hg⟩ := bytes_of_written hid
    obtain ⟨c, hc⟩ := bytes_of_written hcmd
    obtain hno | hno := hno
    · cases hno.symm.trans hg
    · cases hno.symm.trans hc
  | parse =>
    refine (execParse_stops s).resolve_right ?_
    rintro ⟨-, hp⟩
    exact parseState_ne_unwritten hw hp
  | inspect =>
    refine (execInspect_stops s).resolve_right ?_
    rintro ⟨-, hl, hp | ⟨r, hp, hno⟩⟩
    · exact parseState_ne_unwritten (hw hl) hp
    · obtain ⟨hn, hbytes, hraw, hid⟩ := parseState_ok_reads hp
      have hwritten := hw hl hn
      rw [hbytes] at hwritten
      obtain hg | hm | ht := hno
      · exact inbRead_ne_none hwritten hid hg
      · exact inbRead_ne_none hwritten (by omega) hm
      · exact inbRead_ne_none hwritten hraw.le ht

/-! ### The reads of ParseCore, forwards -/

/-- ParseCore reads the header word by word, each once the words before it have passed their checks, and goes on to the
span when packet_length agrees with n (R251). -/
theorem parseCore_reads {m : Memory} {n : Nat} {u t : Bool} (hn : 38 ≤ n) :
    (bufRead m .inb 0 2 = none → parseCore m n u t = .unwritten) ∧
    ∀ apid : BitVec 11, bufRead m .inb 0 2 = some (enc16 (0x1800 + apid.toNat)) →
      (bufRead m .inb 2 2 = none → parseCore m n u t = .unwritten) ∧
      ∀ seq : BitVec 14, bufRead m .inb 2 2 = some (enc16 (0xC000 + seq.toNat)) →
        (bufRead m .inb 4 2 = none → parseCore m n u t = .unwritten) ∧
        ∀ pl < 65536, n = pl + 7 → bufRead m .inb 4 2 = some (enc16 pl) →
          parseCore m n u t = parseSpan m n u t (3#5 ++ apid) (3#2 ++ seq) := by
  simp only [parseCore, Config.parseMin_eq]
  rw [if_neg (Nat.not_lt_of_le hn)]
  refine ⟨fun h1 => by rw [h1], fun apid h1 => ?_⟩
  rw [h1]
  simp only [be16_headerWord1, headerBad_headerWord1, Bool.false_eq_true, if_false]
  refine ⟨fun h2 => by rw [h2], fun seq h2 => ?_⟩
  rw [h2]
  simp only [be16_headerWord2, flagsBad_headerWord2, Bool.false_eq_true, if_false]
  refine ⟨fun h3 => by rw [h3], fun pl hpl hlen h3 => ?_⟩
  rw [h3]
  simp only [be16_enc16 hpl]
  rw [if_neg (by omega)]

/-- Steps 6 to 8 read the timestamp and the ID length, the ID, the command length and the command string, each once what
came before has passed its checks (R251). -/
theorem parseSpan_reads {m : Memory} {n : Nat} {u t : Bool} {w1 w2 : BitVec 16} (hn : 48 ≤ n) :
    (bufRead m .inb 6 8 = none ∨ bufRead m .inb 14 2 = none → parseSpan m n u t w1 w2 = .unwritten) ∧
    ∀ tsBytes lid, lid < 65536 → bufRead m .inb 6 8 = some tsBytes → bufRead m .inb 14 2 = some (enc16 lid) →
      48 + lid ≤ n →
      (bufRead m .inb 16 lid = none → parseSpan m n u t w1 w2 = .unwritten) ∧
      ∀ g, bufRead m .inb 16 lid = some g → (u = true → wellFormedUtf8 g = true) → 50 + lid ≤ n →
        (bufRead m .inb (16 + lid) 2 = none → parseSpan m n u t w1 w2 = .unwritten) ∧
        ∀ lc < 65536, bufRead m .inb (16 + lid) 2 = some (enc16 lc) → 50 + lid + lc ≤ n →
          bufRead m .inb (18 + lid) lc = none → parseSpan m n u t w1 w2 = .unwritten := by
  simp only [parseSpan, Config.hdrLen_eq, Config.digestLen_eq, Config.secFixed_eq]
  rw [if_neg (by omega)]
  refine ⟨?_, fun tsBytes lid hlid hts hil hspan => ?_⟩
  · rintro (hts | hil)
    · rw [hts]
    · rw [hil]
      cases bufRead m .inb 6 8 <;> rfl
  rw [hts, hil]
  simp only [be16_enc16 hlid]
  rw [if_neg (by omega)]
  refine ⟨fun hg => by rw [hg], fun g hg hutf hspan => ?_⟩
  rw [hg]
  have hpass : (u && !wellFormedUtf8 g) = false := by
    cases u with
    | false => rfl
    | true => simp [hutf]
  simp only [hpass, Bool.false_eq_true, if_false]
  rw [if_neg (by omega)]
  refine ⟨fun hcl => by rw [hcl], fun lc hlc hcl hspan hc => ?_⟩
  rw [hcl]
  simp only [be16_enc16 hlc]
  rw [if_neg (by omega), hc]

@[simp] theorem wireHeader_length (apid : BitVec 11) (seq : BitVec 14) (pl : Nat) :
    (wireHeader apid seq pl).length = 6 := by simp [wireHeader]

/-- Past the primary header of the wire format ParseCore is at steps 5 to 9 (R251). -/
theorem parseCore_of_wireHeader {m : Memory} {apid : BitVec 11} {seq : BitVec 14} {pl n : Nat} {u t : Bool}
    (hp : Holds m 0x60000 (wireHeader apid seq pl)) (hpl : pl < 65536) (hn : n = pl + 7) (hmin : 38 ≤ n) :
    parseCore m n u t = parseSpan m n u t (3#5 ++ apid) (3#2 ++ seq) := by
  obtain ⟨hp, h3⟩ := holds_inb_append hp
  obtain ⟨hp, h2⟩ := holds_inb_append hp
  obtain ⟨-, h1⟩ := holds_inb_append (p := []) hp
  exact (((parseCore_reads hmin).2 apid h1).2 seq h2).2 pl hpl hn h3

/-- The reads of step 6 in the wire format. -/
theorem secondary_reads {m : Memory} {apid : BitVec 11} {seq : BitVec 14} {pl lid : Nat} {ts : BitVec 64}
    (hp : Holds m 0x60000 (wireHeader apid seq pl ++ enc64 ts.toNat ++ enc16 lid)) :
    Holds m 0x60000 (wireHeader apid seq pl) ∧ bufRead m .inb 6 8 = some (enc64 ts.toNat) ∧
      bufRead m .inb 14 2 = some (enc16 lid) := by
  obtain ⟨hp, hil⟩ := holds_inb_append hp
  obtain ⟨hp, hts⟩ := holds_inb_append hp
  exact ⟨hp, by simpa using hts, by simpa using hil⟩

/-- A parse that asks for bytes of which one was never written fails for want of it. -/
theorem parseState_of_asksFor {s : State} {p : List Byte} {n : Nat} (hask : AsksFor s p n) (hp : Holds s.mem 0x60000 p)
    (hno : bufRead s.mem .inb p.length n = none) : parseState s = .unwritten := by
  unfold parseState
  cases hask with
  | word1 hmin => exact (parseCore_reads hmin).1 hno
  | word2 apid hmin =>
    obtain ⟨-, h1⟩ := holds_inb_append (p := []) hp
    exact ((parseCore_reads hmin).2 apid h1).1 hno
  | word3 apid seq hmin =>
    obtain ⟨hp, h2⟩ := holds_inb_append hp
    obtain ⟨-, h1⟩ := holds_inb_append (p := []) hp
    exact (((parseCore_reads hmin).2 apid h1).2 seq h2).1 hno
  | secondary apid seq pl hpl hn hfit =>
    rw [parseCore_of_wireHeader hp hpl hn (by omega)]
    exact (parseSpan_reads (by omega)).1 (bufRead_split (k := 8) (n := 2) (by simpa using hno))
  | id apid seq pl ts _ hpl hn hlid hfit =>
    obtain ⟨hp, hts, hil⟩ := secondary_reads hp
    simp only [List.length_append, wireHeader_length, enc64_length, enc16_length] at hno
    rw [parseCore_of_wireHeader hp hpl hn (by omega)]
    exact ((parseSpan_reads (by omega)).2 _ _ hlid hts hil (by omega)).1 hno
  | cmdLen apid seq pl ts g hpl hn hutf hfit =>
    obtain ⟨hp, hg⟩ := holds_inb_append hp
    obtain ⟨hp, hts, hil⟩ := secondary_reads hp
    simp only [List.length_append, wireHeader_length, enc64_length, enc16_length] at hg hno
    rw [parseCore_of_wireHeader hp hpl hn (by omega)]
    exact (((parseSpan_reads (by omega)).2 _ _ (by omega) hts hil (by omega)).2 g hg hutf (by omega)).1 hno
  | cmd apid seq pl ts g _ hpl hn hutf hlc hfit =>
    obtain ⟨hp, hcl⟩ := holds_inb_append hp
    obtain ⟨hp, hg⟩ := holds_inb_append hp
    obtain ⟨hp, hts, hil⟩ := secondary_reads hp
    simp only [List.length_append, wireHeader_length, enc64_length, enc16_length] at hg hcl hno
    rw [show 6 + 8 + 2 + g.length + 2 = 18 + g.length by omega] at hno
    rw [parseCore_of_wireHeader hp hpl hn (by omega)]
    exact (((parseSpan_reads (by omega)).2 _ _ (by omega) hts hil (by omega)).2 g hg hutf (by omega)).2 _ hlc hcl
      (by omega) hno

/-! ### Faults -/

/-- A MAC operation past its checks faults when its message was not all written (R203, R204). -/
theorem execMac_faults {i : Instr} {s : State} (hi : i = .macSign ∨ i = .macVerify) (hl : s.ctrl.lock = true)
    (hn : inCount s ≤ Config.inCap) (hm : message s = none) : exec i s = .fault .unwrittenInput := by
  have hfit := Nat.not_lt_of_le hn
  obtain rfl | rfl := hi
  · rw [exec, execMacSign, if_neg (by simp [hl]), if_neg hfit, hm]
  · rw [exec, execMacVerify, if_neg (by simp [hl]), if_neg hfit, hm]

/-- BUILD past its checks faults when one of its strings was not all written (R220). -/
theorem execBuild_faults {s : State} (hl : s.ctrl.lock = true)
    (hn : s.gsidLen.toNat + s.cmdstrLen.toNat ≤ Config.bodyMax) (hno : buildId s = none ∨ buildCmd s = none) :
    exec .build s = .fault .unwrittenInput := by
  obtain ⟨t, ht⟩ | ⟨hfault, -⟩ := execBuild_stops s
  · obtain ⟨hl', -⟩ | ⟨-, hbig, -⟩ | ⟨-, -, g, c, hg, hc, -⟩ := execBuild_cases ht
    · simp [hl] at hl'
    · omega
    · simp [hg, hc] at hno
  · exact hfault

/-- PARSE and INSPECT fault when ParseCore wants a byte never written (R251, R290). -/
theorem exec_faults_of_parse {i : Instr} {s : State} (hi : i = .parse ∨ i = .inspect ∧ s.ctrl.lock = true)
    (hp : parseState s = .unwritten) : exec i s = .fault .unwrittenInput := by
  obtain rfl | ⟨rfl, hl⟩ := hi
  · simp only [exec, execParse, hp]
  · simp [exec, execInspect, hl, hp]

/-- What INSPECT does on a packet that parses is steps 2 to 4 (R290). -/
theorem execInspect_of_ok {s : State} {r : ParsedFields} (hl : s.ctrl.lock = true) (hp : parseState s = .ok r) :
    execInspect s = inspectParsed (writeParsed (copySource s) r) r := by
  simp [execInspect, hl, hp]

/-- INSPECT of a packet that parses and is listed faults on any byte of it never written, the trailer's included
(R290). -/
theorem execInspect_faults {s : State} {r : ParsedFields} {g : List Byte} (hl : s.ctrl.lock = true)
    (hp : parseState s = .ok r) (hg : bufRead s.mem .inb 16 r.idLen.toNat = some g) (hin : inAllowList s g = true)
    (hno : bufRead s.mem .inb 0 (r.rawLen + 32) = none) : execInspect s = .fault .unwrittenInput := by
  rw [execInspect_of_ok hl hp]
  obtain ⟨t, ht⟩ | ⟨hfault, -⟩ := inspectParsed_stops (writeParsed (copySource s) r) r
  · obtain ⟨g', hg', ⟨hout, -⟩ | ⟨-, m, tag, hm, htag, -⟩⟩ := inspectParsed_cases ht
    · obtain rfl := Option.some.inj (hg.symm.trans hg')
      simp [hin] at hout
    · obtain hno | hno := bufRead_split hno
      · cases hno.symm.trans hm
      · rw [Nat.zero_add] at hno
        cases hno.symm.trans htag
  · exact hfault

/-- INSPECT of a packet that parses and is not listed completes, the trailer unread (R290, R294). -/
theorem execInspect_unlisted {s : State} {r : ParsedFields} {g : List Byte} (hl : s.ctrl.lock = true)
    (hp : parseState s = .ok r) (hg : bufRead s.mem .inb 16 r.idLen.toNat = some g) (hout : inAllowList s g = false) :
    execInspect s = .next (finish (writeParsed (copySource s) r) .notAuthorized .unauthorizedGs) := by
  simp [execInspect_of_ok hl hp, inspectParsed, hg, hout]

/-- Settles O12: each read of an operation that fails is a fault, the reads of ParseCore by `AsksFor`. -/
theorem unwrittenInputFaults : Obligations.UnwrittenInputFaults := by
  unfold Obligations.UnwrittenInputFaults
  refine ⟨fun s i hi hl hn hno => ?_, fun s hl hn hno => ?_, fun s i p n hi hask hp hno => ?_,
    fun s t g hl hparse hok hlen hg => ?_⟩
  · exact execMac_faults hi hl hn (bufRead_eq_none.mpr hno)
  · exact execBuild_faults hl hn (hno.imp bufRead_eq_none.mpr bufRead_eq_none.mpr)
  · exact exec_faults_of_parse hi (parseState_of_asksFor hask hp (bufRead_eq_none.mpr hno))
  · obtain ⟨code, -, hcls, rfl⟩ | ⟨r, hp, rfl⟩ := execParse_cases hparse
    · simp [(structural_bits hcls).2.2] at hok
    · have hid : bufRead s.mem .inb 16 r.idLen.toNat = some g := inbRead_of_holds hlen hg
      refine ⟨fun hin hno => ?_, fun hout => ⟨_, execInspect_unlisted hl hp hid hout, rfl⟩⟩
      refine execInspect_faults hl hp hid hin ?_
      rw [rawLen_of_parseState hp]
      exact bufRead_eq_none.mpr hno

end Machine
end Sys2Proof
end

section
/-! SUPPORT. The statements of 30_encoding.md: the operation word and its issue, the primary header, and what each
operation leaves unchanged. -/

namespace Sys2Proof

/-! ### The operation word -/

/-- The laws of `Laws.OpcodeField`, for every operation at once. -/
theorem opcodeField : ∀ i : Instr, Laws.OpcodeField.Statement i
  | .macSign => Laws.OpcodeField.macSign
  | .macVerify => Laws.OpcodeField.macVerify
  | .build => Laws.OpcodeField.build
  | .parse => Laws.OpcodeField.parse
  | .inspect => Laws.OpcodeField.inspect

@[simp] theorem rsvdOf_encode (i : Instr) : rsvdOf (encode i) = 0 := by
  obtain ⟨-, -, hrsvd, -, -⟩ := opcodeField i
  exact hrsvd

@[simp] theorem opcodeOf_encode (i : Instr) : opcodeOf (encode i) = opcode i := by
  obtain ⟨-, -, -, hop, -⟩ := opcodeField i
  exact hop

/-- The opcode map is the inverse of `opcode` (R141). -/
theorem decodeOpcode_eq_some_iff {c : BitVec 8} {i : Instr} : decodeOpcode c = some i ↔ c = opcode i := by
  constructor
  · intro h
    unfold decodeOpcode at h
    repeat' split at h
    all_goals cases h
    all_goals assumption
  · rintro rfl
    obtain ⟨-, -, -, -, hmap⟩ := opcodeField i
    exact hmap

/-- A word decodes by its two fields: RSVD zero and the opcode in the map (R141 to R143). -/
theorem decode_eq_ok_iff {w : Word} {i : Instr} : decode w = .ok i ↔ rsvdOf w = 0 ∧ opcodeOf w = opcode i := by
  rw [← decodeOpcode_eq_some_iff]
  unfold decode
  by_cases hr : rsvdOf w = 0
  · rw [if_pos hr]
    cases decodeOpcode (opcodeOf w) <;> simp [hr]
  · rw [if_neg hr]
    exact ⟨fun h => (nomatch h), fun h => absurd h.1 hr⟩

/-- An operation word is made of its two fields, with no bit over (R140). -/
theorem packOpWord_fields (w : Word) : packOpWord { opcode := opcodeOf w, rsvd := rsvdOf w } = w := by
  ext k hk
  simp only [packOpWord, opcodeOf, rsvdOf]
  grind

/-- Exactly one word decodes to an operation: its encoding. -/
theorem decode_eq_ok_iff_eq_encode {w : Word} {i : Instr} : decode w = .ok i ↔ w = encode i := by
  rw [decode_eq_ok_iff]
  constructor
  · rintro ⟨hrsvd, hop⟩
    rw [← packOpWord_fields w, hrsvd, hop]
    rfl
  · rintro rfl
    exact ⟨rsvdOf_encode i, opcodeOf_encode i⟩

@[simp] theorem decode_encode (i : Instr) : decode (encode i) = .ok i := decode_eq_ok_iff_eq_encode.mpr rfl

/-- Settles O1: each of the five words is the encoding of its operation. -/
theorem opcodeMapByWholeWord : Obligations.OpcodeMapByWholeWord := fun _ =>
  ⟨decode_eq_ok_iff_eq_encode, decode_eq_ok_iff_eq_encode, decode_eq_ok_iff_eq_encode, decode_eq_ok_iff_eq_encode,
    decode_eq_ok_iff_eq_encode⟩

/-- Settles O2: both directions of the one equivalence. -/
theorem decodeEncodeAgree : Obligations.DecodeEncodeAgree :=
  ⟨decode_encode, fun _ _ h => (decode_eq_ok_iff_eq_encode.mp h).symm⟩

namespace Machine

/-! ### Issue -/

/-- The issue of a legal word starts its operation (R140). -/
theorem issue_encode (s : State) (i : Instr) :
    issue s (encode i) =
      { s with
        status := Status.issued
        opl := opcode i
        tsLatch := if i = .build then s.time else s.tsLatch } := by
  simp [issue]

/-- Settles O5: the offset names OP, whose write while idle is the issue of a legal word. -/
theorem issueStartsOperation : Obligations.IssueStartsOperation := by
  unfold Obligations.IssueStartsOperation
  intro s rest i hb
  rw [step_writeAt_idle hb rest (encode i) (t := .op) rfl (by decide) (by decide), writeIdle, issue_encode]
  rfl

/-! ### The primary header -/

/-- The header BUILD assembles is the wire format's (R157). -/
theorem header_eq_wireHeader (apid : BitVec 11) (seq : BitVec 14) (pl : Nat) :
    header apid seq pl = wireHeader apid seq pl := rfl

/-- The header is its three big-endian words, two bytes each (R151 to R153). -/
theorem wireHeader_words (apid : BitVec 11) (seq : BitVec 14) (pl : Nat) :
    (wireHeader apid seq pl).take 2 = enc16 (0x1800 + apid.toNat) ∧
      ((wireHeader apid seq pl).drop 2).take 2 = enc16 (0xC000 + seq.toNat) ∧
      ((wireHeader apid seq pl).drop 4).take 2 = enc16 pl := ⟨rfl, rfl, rfl⟩

/-- The fixed fields step 2 of the parse asks for (R151, R253). -/
theorem headerBad_eq_false_iff {w : BitVec 16} :
    headerBad w = false ↔ w.extractLsb' 13 3 = 0 ∧ w.extractLsb' 12 1 = 1 ∧ w.extractLsb' 11 1 = 1 := by
  simp [headerBad, and_assoc]

/-- The sequence flags step 3 of the parse asks for (R152, R254). -/
theorem flagsBad_eq_false_iff {w : BitVec 16} : flagsBad w = false ↔ w.extractLsb' 14 2 = 3 := by
  simp [flagsBad]

/-- Settles O3, word by word: the header words of the wire format and the fields they hold. -/
theorem headerFieldsReadBack : Obligations.HeaderFieldsReadBack := by
  unfold Obligations.HeaderFieldsReadBack
  intro apid seq pl hpl
  obtain ⟨hw1, hw2, hw3⟩ := wireHeader_words apid seq pl
  obtain ⟨hversion, htype, hsec⟩ := headerBad_eq_false_iff.mp (headerBad_headerWord1 apid)
  have hflags := flagsBad_eq_false_iff.mp (flagsBad_headerWord2 seq)
  simp only [header_eq_wireHeader]
  rw [hw1, hw2, hw3, be16_headerWord1, be16_headerWord2]
  exact ⟨rfl, hversion, htype, hsec, apid_of_headerWord1 apid, hflags, seq_of_headerWord2 seq, be16_enc16 hpl⟩

/-! ### Frames -/

/-- Settles O17, outcome by outcome: each is an update of the listed registers, and none stores to memory. -/
theorem macFrame : Obligations.MacFrame := by
  unfold Obligations.MacFrame
  refine ⟨fun s t h => ?_, fun s t h => ?_⟩
  · obtain ⟨-, rfl⟩ | ⟨-, -, rfl⟩ | ⟨-, -, m, -, rfl⟩ := execMacSign_cases h
    · exact ⟨rfl, fun _ => ⟨rfl, rfl⟩, fun _ => rfl⟩
    · exact ⟨rfl, fun _ => ⟨rfl, rfl⟩, fun _ => rfl⟩
    · exact ⟨rfl, fun hok => (nomatch hok), fun _ => rfl⟩
  · obtain ⟨-, rfl⟩ | ⟨-, -, rfl⟩ | ⟨-, -, m, -, rfl⟩ := execMacVerify_cases h
    all_goals exact ⟨rfl, fun _ => rfl⟩

/-- The packet of a BUILD that passed its length check is within PKT_MAX (R161, R224). -/
theorem signedPacket_length_le {s : State} {g c : List Byte}
    (hfit : s.gsidLen.toNat + s.cmdstrLen.toNat ≤ Config.bodyMax) (hg : buildId s = some g) (hc : buildCmd s = some c)
    (k : List Byte) : (signedPacket k s.apid s.seq s.tsLatch g c).length ≤ Config.pktMax := by
  have hgl := (bufRead_eq_some.mp hg).1
  have hcl := (bufRead_eq_some.mp hc).1
  simp only [signedPacket_length, Config.bodyMax_eq, Config.pktMax_eq] at hfit ⊢
  omega

/-- OUT_LEN holds the whole length of a packet of legal length (R46). -/
theorem writePacket_outLen_toNat (s : State) {p : List Byte} (h : p.length ≤ Config.pktMax) :
    (writePacket s p).outLen.toNat = p.length := by
  simp only [writePacket_outLen, BitVec.toNat_ofNat, Config.pktMax_eq] at h ⊢
  omega

/-- A byte outside the first OUT_LEN bytes of OUT_BUF is as before the packet (R220). -/
theorem read_writePacket_other (s : State) {p : List Byte} (h : p.length ≤ Config.pktMax) {a : Nat}
    (ha : ¬ (BufId.out.base ≤ a ∧ a < BufId.out.base + (writePacket s p).outLen.toNat)) :
    Memory.read (writePacket s p).mem a = Memory.read s.mem a := by
  rw [writePacket_outLen_toNat s h] at ha
  exact read_writeBytes_other s.mem BufId.out.base p (by omega)

/-- Settles O23, outcome by outcome: only the success stores to memory, and it stores the packet alone. -/
theorem buildFrame : Obligations.BuildFrame := by
  unfold Obligations.BuildFrame
  intro s t h
  obtain ⟨-, rfl⟩ | ⟨-, -, rfl⟩ | ⟨-, hfit, g, c, hg, hc, ⟨-, -, rfl⟩ | ⟨-, -, -, rfl⟩ | ⟨-, -, rfl⟩⟩ :=
    execBuild_cases h
  case inr.inr.inr.inr =>
    have hlen := signedPacket_length_le hfit hg hc (keyS s)
    -- What the packet's bytes are does not matter here, only that they fit.
    generalize signedPacket (keyS s) s.apid s.seq s.tsLatch g c = p at hlen ⊢
    exact ⟨rfl, fun _ _ ha => read_writePacket_other s hlen ha, fun hok => (nomatch hok)⟩
  all_goals exact ⟨rfl, fun hok => (nomatch hok), fun _ _ => rfl⟩

/-- Settles O41, outcome by outcome: each is an update of the listed registers, and none stores to memory. -/
theorem parseInspectFrame : Obligations.ParseInspectFrame := by
  unfold Obligations.ParseInspectFrame
  refine ⟨fun s t h => ?_, fun s t h => ?_⟩
  · obtain ⟨code, -, -, rfl⟩ | ⟨r, -, rfl⟩ := execParse_cases h
    all_goals exact ⟨rfl, fun _ => rfl⟩
  · obtain ⟨-, rfl⟩ | ⟨-, code, -, -, rfl⟩ | ⟨-, r, -, hins⟩ := execInspect_cases h
    · exact ⟨rfl, fun _ => rfl⟩
    · exact ⟨rfl, fun _ => rfl⟩
    · obtain ⟨g, -, ⟨-, rfl⟩ | ⟨-, m, tag, -, -, ⟨-, rfl⟩ | ⟨-, rfl⟩⟩⟩ := inspectParsed_cases hins
      all_goals exact ⟨rfl, fun _ => rfl⟩

end Machine
end Sys2Proof
end

section
/-! SUPPORT. The statements of 40_mac.md: constant-time equality, and what MAC_SIGN and MAC_VERIFY answer on a message
that fits and was written. -/

namespace Sys2Proof
namespace Machine

/-- Settles O13: the first two clauses by what the loop of `CTEq` ends with; the time names the lengths alone. -/
theorem constantTimeEquality : Obligations.ConstantTimeEquality := by
  unfold Obligations.ConstantTimeEquality
  refine ⟨ctEq_iff, fun a b hlen => ?_, fun a a' b b' ha hb => ?_⟩
  · rw [ctPairs, if_neg (not_not.mpr hlen), (ctLoop_spec a b 0 0 hlen).2, Nat.zero_add]
  · rw [ctTime, ctTime, ha, hb]

/-! ### Operands -/

/-- The message of the MAC operations is the IN_LEN bytes IN_BUF holds (R203, R204). -/
theorem message_eq {s : State} {msg : List Byte} (hlen : msg.length = s.inLen.toNat) (hmsg : Holds s.mem 0x60000 msg) :
    message s = some msg := inbRead_of_holds hlen hmsg

/-- The provided tag is the 32-byte string `v` exactly when TAG_LEN is 32 and the TAG bank holds `v` (R51, R204). -/
theorem providedTag_eq_iff (s : State) (v : Vector Byte 32) :
    providedTag s = v.toList ↔ s.tagLen.toNat = 32 ∧ ∀ j : Fin 32, tagByte s j = v[j] := by
  rw [List.ext_getElem_iff]
  simp only [providedTag, List.length_map, List.length_range, Vector.length_toList, List.getElem_map,
    List.getElem_range, Vector.getElem_toList]
  constructor
  · rintro ⟨hlen, hbytes⟩
    refine ⟨hlen, fun j => ?_⟩
    have hj := hbytes j.val (by omega) j.isLt
    rwa [dif_pos j.isLt] at hj
  · rintro ⟨hlen, hbytes⟩
    refine ⟨hlen, fun j _ hj => ?_⟩
    rw [dif_pos hj]
    exact hbytes ⟨j, hj⟩

/-- After MAC_SIGN has written its tag, that tag is the provided one (R203, R206). -/
@[simp] theorem providedTag_writeTag (s : State) (v : Vector Byte 32) : providedTag (writeTag s v) = v.toList :=
  (providedTag_eq_iff _ v).mpr ⟨rfl, tagBank_lane v⟩

@[simp] theorem providedTag_finish (s : State) (code : ResultCode) (ev : EventKind) :
    providedTag (finish s code ev) = providedTag s := rfl
@[simp] theorem keyV_finish (s : State) (code : ResultCode) (ev : EventKind) : keyV (finish s code ev) = keyV s := rfl
@[simp] theorem keyV_writeTag (s : State) (v : Vector Byte 32) : keyV (writeTag s v) = keyV s := rfl

/-! ### Outcomes -/

/-- A completion with no event and a code outside class 5 sets DONE alone (R322). -/
theorem afterCompletion_none (q : Irq) {code : ResultCode} (h : classOf code ≠ 5) :
    q.afterCompletion code .none = { q with done := true } := by
  rw [Irq.afterCompletion, decide_eq_false h]
  simp [severityOf]

/-- The state of a success with no event (R322). -/
theorem finish_ok (s : State) :
    finish s .ok .none =
      { s with
        status := { Status.zero with done := true, ok := true }
        irqStatus := { s.irqStatus with done := true } } := by
  rw [finish, afterCompletion_none s.irqStatus (by decide)]
  rfl

/-- The state of a failed verification with no event (R207, R322). -/
theorem finish_authFailed (s : State) :
    finish s .authFailed .none =
      { s with
        status := { Status.zero with done := true, result := 0x11, cls := 3 }
        irqStatus := { s.irqStatus with done := true } } := by
  rw [finish, afterCompletion_none s.irqStatus (by decide)]
  rfl

/-- MAC_SIGN past its checks writes the tag of the message (R203). -/
theorem execMacSign_of_message {s : State} {m : List Byte} (hl : s.ctrl.lock = true) (hfit : inCount s ≤ Config.inCap)
    (hm : message s = some m) :
    execMacSign s = .next (finish (writeTag s (Config.macFn (keyS s) m)) .ok .none) := by
  rw [execMacSign, if_neg (by simp [hl]), if_neg (Nat.not_lt.mpr hfit), hm]

/-- MAC_VERIFY past its checks succeeds exactly when the provided tag is the message's (R202, R204). -/
theorem execMacVerify_of_message {s : State} {m : List Byte} (hl : s.ctrl.lock = true)
    (hfit : inCount s ≤ Config.inCap) (hm : message s = some m) :
    execMacVerify s =
      .next (finish s (if macTag (keyV s) m = providedTag s then .ok else .authFailed) .none) := by
  rw [execMacVerify, if_neg (by simp [hl]), if_neg (Nat.not_lt.mpr hfit), hm]
  simp only [verify_iff]
  split <;> rfl

/-- Settles O14: the bank is the tag's, lane by lane. -/
theorem macSignSigns : Obligations.MacSignSigns := by
  unfold Obligations.MacSignSigns
  intro s k msg hk hl hlen hfit hmsg
  refine ⟨tagBank (Config.macFn k msg), tagBank_lane _, ?_⟩
  rw [exec, execMacSign_of_message hl (hlen.symm.trans_le hfit) (message_eq hlen hmsg), keyS_eq hk, finish_ok]
  rfl

/-- Settles O15: the verdict compares the provided tag with the message's, and `providedTag_eq_iff` reads that off
TAG_LEN and the TAG bank. -/
theorem macVerifyDecides : Obligations.MacVerifyDecides := by
  unfold Obligations.MacVerifyDecides
  intro s k msg hk hl hlen hfit hmsg provided
  have hiff : macTag k msg = providedTag s ↔ provided := eq_comm.trans (providedTag_eq_iff s (Config.macFn k msg))
  rw [exec, execMacVerify_of_message hl (hlen.symm.trans_le hfit) (message_eq hlen hmsg), keyV_eq hk]
  refine ⟨fun h => ?_, fun h => ?_⟩
  · rw [if_pos (hiff.mpr h), finish_ok]
  · rw [if_neg (mt hiff.mp h), finish_authFailed]

/-- Settles O16: a MAC_SIGN that succeeded leaves the message's tag as the provided one, and MAC_VERIFY reads the same
message and key. -/
theorem signedMessageVerifies : Obligations.SignedMessageVerifies := by
  unfold Obligations.SignedMessageVerifies
  intro s t k h hok hs hv
  obtain ⟨-, rfl⟩ | ⟨-, -, rfl⟩ | ⟨hl, hfit, m, hm, rfl⟩ := execMacSign_cases h
  · cases hok
  · cases hok
  · have hkey : keyV s = keyS s := (keyV_eq hv).trans (keyS_eq hs).symm
    have hverify :=
      execMacVerify_of_message (s := finish (writeTag s (Config.macFn (keyS s) m)) .ok .none) hl hfit hm
    rw [keyV_finish, keyV_writeTag, hkey, providedTag_finish, providedTag_writeTag, macTag, if_pos rfl] at hverify
    exact ⟨_, hverify, rfl, rfl, rfl⟩

end Machine
end Sys2Proof
end

section
/-! SUPPORT. The statements of 41_build.md: when SEQ advances, what BUILD answers on each kind of input, and what becomes
of a built packet that is copied to IN_BUF. -/

namespace Sys2Proof
namespace Machine

/-! ### How BUILD can end -/

/-- The packet BUILD signs is the one of the wire format, its tag after it (R156, R227). -/
theorem signedPacket_eq (k : List Byte) (apid : BitVec 11) (seq : BitVec 14) (ts : BitVec 64) (g c : List Byte) :
    signedPacket k apid seq ts g c = wireUnsigned apid seq ts g c ++ macTag k (wireUnsigned apid seq ts g c) := by
  rw [signedPacket, unsignedPacket_eq]

/-- The three kinds of end of a BUILD: not locked, refused with class 4, and the packet written (R220, R229). -/
theorem execBuild_outcome {s t : State} (h : execBuild s = .next t) :
    t = finish s .notLocked .none ∨
    (∃ code, classOf code = 4 ∧ t = finish (clearOutLen s) code .none) ∨
    (∃ g c, s.gsidLen.toNat + s.cmdstrLen.toNat ≤ Config.bodyMax ∧ buildId s = some g ∧ buildCmd s = some c ∧
      PassesUtf8 s.ctrl g ∧ PassesUtf8 s.ctrl c ∧
      t = finish (writePacket s (signedPacket (keyS s) s.apid s.seq s.tsLatch g c)) .ok .none) := by
  obtain ⟨-, ht⟩ | ⟨-, -, ht⟩ | ⟨-, hfit, g, c, hg, hc, ⟨-, -, ht⟩ | ⟨-, -, -, ht⟩ | ⟨hug, huc, ht⟩⟩ := execBuild_cases h
  · exact .inl ht
  · exact .inr (.inl ⟨_, rfl, ht⟩)
  · exact .inr (.inl ⟨_, rfl, ht⟩)
  · exact .inr (.inl ⟨_, rfl, ht⟩)
  · exact .inr (.inr ⟨g, c, hfit, hg, hc, hug, huc, ht⟩)

/-- Class 4 holds the refusals of BUILD's inputs alone (R170). -/
theorem refusal_code {code : ResultCode} (h : classOf code = 4) : code ≠ .ok ∧ code ≠ .notLocked := by
  constructor
  all_goals
    rintro rfl
    cases h

/-! ### SEQ over a run -/

/-- A count of SEQ is below SEQ_MOD (R40). -/
theorem seq_mod (x : BitVec 14) : x.toNat % 16384 = x.toNat := Nat.mod_eq_of_lt x.isLt

/-- The ENGINE fetches an operation exactly when OPL holds its opcode (R80, R141). -/
theorem fetch_eq_some_iff {s : State} {i : Instr} : fetch s = some i ↔ s.opl = opcode i := by
  have hop : opcodeOf (s.opl.setWidth 32) = s.opl := by
    ext k hk
    simp only [opcodeOf]
    grind
  refine ⟨fun h => ?_, fetch_of_opl⟩
  unfold fetch at h
  split at h
  · next j hj =>
    obtain rfl := Option.some.inj h
    rw [← hop, (decode_eq_ok_iff.mp hj).2]
  · cases h

/-- SEQ after a packet is the next count (R228). -/
theorem writePacket_seq_toNat (s : State) (p : List Byte) : (writePacket s p).seq.toNat = (s.seq.toNat + 1) % 16384 := by
  simp

/-- BUILD advances SEQ exactly when it succeeds (R228). -/
theorem execBuild_seq {s t : State} (h : execBuild s = .next t) :
    (t.status.ok = true → t.seq.toNat = (s.seq.toNat + 1) % 16384) ∧ (t.status.ok = false → t.seq = s.seq) := by
  obtain rfl | ⟨code, hcls, rfl⟩ | ⟨g, c, -, -, -, -, -, rfl⟩ := execBuild_outcome h
  · exact ⟨fun hok => (nomatch hok), fun _ => rfl⟩
  · exact ⟨fun hok => by simp [(refusal_code hcls).1] at hok, fun _ => rfl⟩
  · exact ⟨fun _ => by rw [finish_seq, writePacket_seq_toNat], fun hok => (nomatch hok)⟩

/-- No other operation writes SEQ: it is outside their frames (R145). -/
theorem seq_of_not_build {i : Instr} {s t : State} (h : exec i s = .next t) (hi : i ≠ .build) : t.seq = s.seq := by
  cases i with
  | macSign => exact (congrArg State.seq (macFrame.1 s t h).1).trans rfl
  | macVerify => exact (congrArg State.seq (macFrame.2 s t h).1).trans rfl
  | build => exact absurd rfl hi
  | parse => exact (congrArg State.seq (parseInspectFrame.1 s t h).1).trans rfl
  | inspect => exact (congrArg State.seq (parseInspectFrame.2 s t h).1).trans rfl

theorem BusyFrame.seq {s t : State} (h : BusyFrame s t) : t.seq = s.seq := by
  unfold BusyFrame at h
  rw [h]

/-- The ENGINE's turn advances SEQ exactly when it completes a BUILD that succeeds. -/
theorem engineStep_seq {s t : State} (h : engineStep s = .next t) :
    t.seq.toNat = (s.seq.toNat + if s.status.busy = true ∧ s.opl = 0x03 ∧ t.status.ok = true then 1 else 0) % 16384 := by
  obtain ⟨hb, rfl⟩ | ⟨hb, i, hf, hx⟩ := engineStep_cases h
  · rw [if_neg (by simp [hb]), Nat.add_zero, seq_mod]
  rw [fetch_eq_some_iff] at hf
  by_cases hi : i = .build
  · subst hi
    obtain ⟨hok, hfail⟩ := execBuild_seq hx
    cases hs : t.status.ok with
    | true => rw [if_pos ⟨hb, hf, rfl⟩, hok hs]
    | false => rw [if_neg (by simp), Nat.add_zero, seq_mod, hfail hs]
  · have hne : s.opl ≠ 0x03 := by
      rw [hf]
      revert hi
      cases i <;> decide
    rw [if_neg (fun hc => hne hc.2.1), Nat.add_zero, seq_mod, seq_of_not_build hx hi]

/-- What `builtNow` says of a step that answers `t`. -/
theorem builtNow_iff {s t : State} (h : step s = .next t) :
    builtNow s = true ↔ (s.script = [] ∨ s.script.head? = some .engine) ∧
      (s.status.busy = true ∧ s.opl = 0x03 ∧ t.status.ok = true) := by
  simp only [builtNow, h, Bool.and_eq_true, decide_eq_true_eq]
  tauto

/-- The turn of another agent than the ENGINE completes no BUILD. -/
theorem builtNow_of_turn {s : State} {e : Event} {rest : List Event} (hs : s.script = e :: rest) (he : e ≠ .engine) :
    builtNow s = false := by
  simp [builtNow, hs, he]

/-- A step of any agent but RESET advances SEQ exactly when it completes a BUILD that succeeds (R233). -/
theorem step_seq {s t : State} (h : step s = .next t) (hr : Event.reset ∉ s.script) :
    t.seq.toNat = (s.seq.toNat + if builtNow s = true then 1 else 0) % 16384 := by
  have quiet : builtNow s = false → t.seq = s.seq →
      t.seq.toNat = (s.seq.toNat + if builtNow s = true then 1 else 0) % 16384 := by
    intro hb hseq
    rw [hb, hseq, if_neg Bool.false_ne_true, Nat.add_zero, seq_mod]
  obtain ⟨hs, he⟩ | ⟨rest, hs, he⟩ | ⟨x, rest, hs, rfl⟩ | ⟨rest, hs, rfl⟩ | ⟨rest, hs, rfl⟩ := step_cases h
  · simpa [builtNow_iff h, hs] using engineStep_seq he
  · simpa [builtNow_iff h, hs] using engineStep_seq he
  · exact quiet (builtNow_of_turn hs (by simp)) (hostStep_seq_script _ x).1
  · exact quiet (builtNow_of_turn hs (by simp)) (busyFrame_tickStep { s with script := rest }).seq
  · exact absurd (by simp [hs]) hr

/-- Settles O22, by induction on the number of steps: each step counts itself, and none of the turns after it is a
RESET. -/
theorem seqCountsBuilds : Obligations.SeqCountsBuilds := by
  unfold Obligations.SeqCountsBuilds
  intro k
  induction k with
  | zero =>
    intro s t _ h
    cases next_inj.mp ((run_zero s).symm.trans h)
    exact (seq_mod s.seq).symm
  | succ k ih =>
    intro s t hr h
    obtain ⟨u, hu, hrun⟩ := run_succ.mp h
    have htail : Event.reset ∉ u.script := by
      rw [step_script hu]
      exact fun hmem => hr (List.mem_of_mem_tail hmem)
    rw [ih u t htail hrun, step_seq hu hr, Nat.mod_add_mod, Nat.add_assoc]
    simp only [buildsIn, hu]

/-! ### What BUILD answers -/

/-- GSID_BUF and CMDSTR_BUF hold the strings `g` and `c`, of the lengths in GSID_LEN and CMDSTR_LEN (R44, R45). -/
structure BuildInputs (s : State) (g c : List Byte) : Prop where
  idLength : g.length = s.gsidLen.toNat
  cmdLength : c.length = s.cmdstrLen.toNat
  idHeld : Holds s.mem 0x10000 g
  cmdHeld : Holds s.mem 0x20000 c

theorem BuildInputs.buildId_eq {s : State} {g c : List Byte} (h : BuildInputs s g c) : buildId s = some g :=
  bufRead_eq_some.mpr ⟨h.idLength, h.idHeld⟩

theorem BuildInputs.buildCmd_eq {s : State} {g c : List Byte} (h : BuildInputs s g c) : buildCmd s = some c :=
  bufRead_eq_some.mpr ⟨h.cmdLength, h.cmdHeld⟩

/-- The length check comes first and reads no buffer byte (R222). -/
theorem execBuild_tooLong {s : State} (hl : s.ctrl.lock = true) (hbig : 65492 < s.gsidLen.toNat + s.cmdstrLen.toNat) :
    execBuild s = .next (finish (clearOutLen s) .pktTooLong .none) := by
  rw [execBuild, if_neg (by simp [hl]), if_pos hbig]

/-- Past the length check the two UTF-8 checks decide, the identifier's first (R220, R223). -/
theorem execBuild_of_inputs {s : State} {g c : List Byte} (hl : s.ctrl.lock = true) (hin : BuildInputs s g c)
    (hfit : g.length + c.length ≤ 65492) :
    execBuild s =
      if s.ctrl.utf8Check && !wellFormedUtf8 g then .next (finish (clearOutLen s) .buildIdNotUtf8 .none)
      else if s.ctrl.utf8Check && !wellFormedUtf8 c then .next (finish (clearOutLen s) .buildCmdNotUtf8 .none)
      else .next (finish (writePacket s (signedPacket (keyS s) s.apid s.seq s.tsLatch g c)) .ok .none) := by
  rw [hin.idLength, hin.cmdLength] at hfit
  rw [execBuild, if_neg (by simp [hl]), if_neg (Nat.not_lt_of_le hfit), hin.buildId_eq, hin.buildCmd_eq]

/-- A string that passes its UTF-8 check is not refused. -/
theorem utf8_not_refused {u : Bool} {g : List Byte} (h : u = true → wellFormedUtf8 g = true) :
    ¬ (u && !wellFormedUtf8 g) = true := by
  simpa using h

/-- The state of a refused BUILD (R229, R322). -/
theorem finish_refused (s : State) {code : ResultCode} (h : classOf code = 4) :
    finish s code .none =
      { s with
        status := { Status.zero with done := true, result := code.bits, cls := 4 }
        irqStatus := { s.irqStatus with done := true } } := by
  rw [finish, afterCompletion_none s.irqStatus (by simp [h]), Status.completed, decide_eq_false (refusal_code h).1, h]
  rfl

/-- The state of a successful BUILD of the packet `p` (R220, R228, R322). -/
theorem finish_writePacket (s : State) {p : List Byte} {n : Nat} (hlen : p.length = n) :
    finish (writePacket s p) .ok .none =
      { s with
        mem := bufWrite s.mem .out 0 p
        outLen := BitVec.ofNat 17 n
        seq := BitVec.ofNat 14 ((s.seq.toNat + 1) % 16384)
        status := { Status.zero with done := true, ok := true }
        irqStatus := { s.irqStatus with done := true } } := by
  rw [finish_ok, ← hlen]
  rfl

/-- Settles O18: past its checks BUILD stores the signed packet, which is the wire format's with its tag. -/
theorem buildWritesPacket : Obligations.BuildWritesPacket := by
  unfold Obligations.BuildWritesPacket
  intro s k g c hk hl hgl hcl hfit hg hc hug huc
  have hlen := signedPacket_length k s.apid s.seq s.tsLatch g c
  refine ⟨bufWrite s.mem .out 0 (signedPacket k s.apid s.seq s.tsLatch g c), ?_, fun a ha => ?_, ?_⟩
  · have hheld := holds_bufWrite s.mem .out (signedPacket k s.apid s.seq s.tsLatch g c) (by rw [hlen, cap_out]; omega)
    rwa [signedPacket_eq] at hheld ⊢
  · exact read_writeBytes_other _ _ _ (by rw [hlen, base_out]; omega)
  · rw [exec, execBuild_of_inputs hl ⟨hgl, hcl, hg, hc⟩ hfit, if_neg (utf8_not_refused hug),
      if_neg (utf8_not_refused huc), keyS_eq hk, finish_writePacket s hlen]

/-- Settles O19: the length check, then the two UTF-8 checks, each refusal of class 4. -/
theorem buildRefusesInputs : Obligations.BuildRefusesInputs := by
  unfold Obligations.BuildRefusesInputs
  refine ⟨fun s hl hbig => ?_, fun s g c hl hu hgl hcl hfit hg hc => ⟨fun hbad => ?_, fun hgood hbad => ?_⟩⟩
  · rw [exec, execBuild_tooLong hl hbig, finish_refused _ rfl]
    rfl
  · rw [exec, execBuild_of_inputs hl ⟨hgl, hcl, hg, hc⟩ hfit, if_pos (by simp [hu, hbad]), finish_refused _ rfl]
    rfl
  · rw [exec, execBuild_of_inputs hl ⟨hgl, hcl, hg, hc⟩ hfit, if_neg (by simp [hgood]), if_pos (by simp [hu, hbad]),
      finish_refused _ rfl]
    rfl

/-- Settles O20, by the three kinds of end; RESULT tells NOT_LOCKED from the refusals. -/
theorem failedBuildLeavesNoPacket : Obligations.FailedBuildLeavesNoPacket := by
  unfold Obligations.FailedBuildLeavesNoPacket
  intro s t h
  obtain rfl | ⟨code, hcls, rfl⟩ | ⟨g, c, -, -, -, -, -, rfl⟩ := execBuild_outcome h
  · exact ⟨fun hc => (nomatch hc), fun _ => rfl, fun _ => .inr rfl⟩
  · exact ⟨fun _ => rfl, fun hr => absurd (resultCode_bits_injective code .notLocked hr) (refusal_code hcls).2,
      fun _ => .inl rfl⟩
  · exact ⟨fun hc => (nomatch hc), fun hr => (nomatch hr), fun hok => (nomatch hok)⟩

/-- The packet a BUILD that passed its length check has written is in OUT_BUF (R220). -/
theorem holds_writePacket {s : State} {g c : List Byte} (hfit : s.gsidLen.toNat + s.cmdstrLen.toNat ≤ Config.bodyMax)
    (hg : buildId s = some g) (hc : buildCmd s = some c) (k : List Byte) :
    Holds (writePacket s (signedPacket k s.apid s.seq s.tsLatch g c)).mem 0x40000
      (wireUnsigned s.apid s.seq s.tsLatch g c ++ macTag k (wireUnsigned s.apid s.seq s.tsLatch g c)) := by
  rw [← signedPacket_eq, writePacket_mem]
  exact holds_bufWrite s.mem .out _ ((signedPacket_length_le hfit hg hc k).trans (by decide))

/-- Header word 2 of a packet is its bytes 2 and 3 (R152). -/
theorem holds_headerWord2 {m : Memory} {a : Nat} {apid : BitVec 11} {seq : BitVec 14} {ts : BitVec 64}
    {g c : List Byte} (h : Holds m a (wireUnsigned apid seq ts g c)) : Holds m (a + 2) (enc16 (0xC000 + seq.toNat)) := by
  simp only [wireUnsigned, List.append_assoc, holds_append, enc16_length] at h
  exact h.2.1

/-- Settles O21: the count by `execBuild_seq`; the packet of a success carries the old SEQ. -/
theorem seqAdvancesOnSuccessOnly : Obligations.SeqAdvancesOnSuccessOnly := by
  unfold Obligations.SeqAdvancesOnSuccessOnly
  intro s t h
  obtain ⟨hnext, hsame⟩ := execBuild_seq h
  refine ⟨fun hok => ⟨hnext hok, ?_⟩, hsame⟩
  obtain rfl | ⟨code, hcls, rfl⟩ | ⟨g, c, hfit, hg, hc, -, -, rfl⟩ := execBuild_outcome h
  · cases hok
  · simp [(refusal_code hcls).1] at hok
  · have hheld := holds_writePacket hfit hg hc (keyS s)
    have hword := holds_headerWord2 (holds_append.mp hheld).1
    rwa [finish_mem]

/-! ### Parsing the wire format -/

/-- The fields of a packet of the wire format with an ID of `lid` bytes, a command string of `lc` and `n` in all. -/
def wireFields (apid : BitVec 11) (seq : BitVec 14) (ts : BitVec 64) (lid lc n : Nat) : ParsedFields :=
  { apid := apid
    seq := seq
    ts := ts
    idLen := BitVec.ofNat 16 lid
    cmdLen := BitVec.ofNat 16 lc
    rawLen := n - 32 }

theorem be16_enc16_eq_ofNat (v : Nat) : be16 (enc16 v) = BitVec.ofNat 16 v := by
  apply BitVec.eq_of_toNat_eq
  simp [be16, enc16, beNat_encBE]

/-- Steps 5 to 9 on a span that holds the secondary header and the payload of the wire format succeed, TRAIL_CHECK
asking that nothing but the trailer follows (R251). -/
theorem parseSpan_of_span {m : Memory} {n : Nat} {u t : Bool} {apid : BitVec 11} {seq : BitVec 14} {ts : BitVec 64}
    {g c : List Byte} (h : Holds m (0x60000 + 6) (enc64 ts.toNat ++ enc16 g.length ++ (g ++ (enc16 c.length ++ c))))
    (hg : g.length < 65536) (hc : c.length < 65536) (hug : u = true → wellFormedUtf8 g = true)
    (huc : u = true → wellFormedUtf8 c = true) (hn : 50 + g.length + c.length ≤ n)
    (ht : t = true → 50 + g.length + c.length = n) :
    parseSpan m n u t (3#5 ++ apid) (3#2 ++ seq) = .ok (wireFields apid seq ts g.length c.length n) := by
  obtain ⟨hts, hil, hrest⟩ := span_head h
  simp only [holds_append, enc16_length] at hrest
  obtain ⟨hidHeld, hclHeld, hcmdHeld⟩ := hrest
  have hid := inbRead_of_holds (off := 16) rfl hidHeld
  have hcl := inbRead_of_holds (off := 16 + g.length) (enc16_length c.length) (by rwa [← Nat.add_assoc])
  have hcmd := inbRead_of_holds (off := 18 + g.length) rfl
    (by rwa [show 0x60000 + (18 + g.length) = 0x60000 + 16 + g.length + 2 by omega])
  have htrail : ¬ (t && decide (12 + g.length + c.length ≠ n - 6 - 32)) = true := by
    simp only [Bool.and_eq_true, decide_eq_true_eq]
    rintro ⟨htc, hne⟩
    have := ht htc
    omega
  simp only [parseSpan, Config.hdrLen_eq, Config.digestLen_eq, Config.secFixed_eq]
  rw [if_neg (by omega), hts, hil]
  simp only [be16_enc16 hg]
  rw [if_neg (by omega), hid]
  simp only []
  rw [if_neg (utf8_not_refused hug), if_neg (by omega), hcl]
  simp only [be16_enc16 hc]
  rw [if_neg (by omega), hcmd]
  simp only []
  rw [if_neg (utf8_not_refused huc), if_neg htrail, apid_of_headerWord1, seq_of_headerWord2, be64_enc64,
    be16_enc16_eq_ofNat, be16_enc16_eq_ofNat]
  rfl

/-- A packet of the wire format in its two parts, the primary header and the span. -/
theorem wireUnsigned_eq (apid : BitVec 11) (seq : BitVec 14) (ts : BitVec 64) (g c : List Byte) :
    wireUnsigned apid seq ts g c = wireHeader apid seq (g.length + c.length + 43) ++
      (enc64 ts.toNat ++ enc16 g.length ++ (g ++ (enc16 c.length ++ c))) := by
  simp only [wireUnsigned, wireHeader, List.append_assoc]

/-- A packet of the wire format parses, whatever its trailer holds and whatever TRAIL_CHECK is (R251). -/
theorem parseState_of_wire {s : State} {apid : BitVec 11} {seq : BitVec 14} {ts : BitVec 64} {g c : List Byte}
    (h : Holds s.mem 0x60000 (wireUnsigned apid seq ts g c)) (hfit : g.length + c.length ≤ 65492)
    (hn : s.inLen.toNat = g.length + c.length + 50) (hug : PassesUtf8 s.ctrl g) (huc : PassesUtf8 s.ctrl c) :
    parseState s = .ok (wireFields apid seq ts g.length c.length s.inLen.toNat) := by
  rw [wireUnsigned_eq, holds_append, wireHeader_length] at h
  obtain ⟨hheader, hspan⟩ := h
  rw [parseState, inCount, parseCore_of_wireHeader hheader (by omega) (by omega) (by omega)]
  exact parseSpan_of_span hspan (by omega) (by omega) hug huc (by omega) (fun _ => by omega)

/-- Where the two strings of a packet stand (R154, R155). -/
theorem holds_wireStrings {m : Memory} {a : Nat} {apid : BitVec 11} {seq : BitVec 14} {ts : BitVec 64}
    {g c : List Byte} (h : Holds m a (wireUnsigned apid seq ts g c)) :
    Holds m (a + 16) g ∧ Holds m (a + 18 + g.length) c := by
  simp only [wireUnsigned_eq, holds_append, wireHeader_length, enc64_length, enc16_length, List.length_append] at h
  obtain ⟨-, -, hg, -, hc⟩ := h
  exact ⟨hg, by rwa [show a + 18 + g.length = a + 6 + (8 + 2) + g.length + 2 by omega]⟩

/-! ### A built packet copied to IN_BUF -/

/-- A string copied byte for byte is held where it was copied to. -/
theorem holds_of_copy {m m' : Memory} {a b n : Nat} {p : List Byte} (hp : Holds m a p) (hn : p.length = n)
    (hcopy : ∀ k < n, Memory.read m' (b + k) = Memory.read m (a + k)) : Holds m' b p :=
  fun k hk => (hcopy k (hn ▸ hk)).trans (hp k hk)

/-- IN_BUF of `u` holds the packet BUILD makes of APID, SEQ and TS_LATCH of `s` and of the strings `g` and `c` under the
key `k`, with its length in IN_LEN, and the strings pass the UTF-8 check of `u`. -/
structure BuiltCopy (s u : State) (k g c : List Byte) : Prop where
  fits : g.length + c.length ≤ 65492
  count : u.inLen.toNat = g.length + c.length + 50
  rawHeld : Holds u.mem 0x60000 (wireUnsigned s.apid s.seq s.tsLatch g c)
  tagHeld : Holds u.mem (0x60000 + (g.length + c.length + 18)) (macTag k (wireUnsigned s.apid s.seq s.tsLatch g c))
  idUtf8 : PassesUtf8 u.ctrl g
  cmdUtf8 : PassesUtf8 u.ctrl c

/-- The copy of what a successful BUILD left in OUT_BUF is such a packet (R220, R232). -/
theorem builtCopy_of_build {s t u : State} {k g c : List Byte} (hk : SigningKey s k) (h : execBuild s = .next t)
    (hok : t.status.ok = true) (hin : BuildInputs s g c)
    (hcopy : ∀ a < t.outLen.toNat, Memory.read u.mem (0x60000 + a) = Memory.read t.mem (0x40000 + a))
    (hlen : u.inLen.toNat = t.outLen.toNat) (hutf : u.ctrl.utf8Check = s.ctrl.utf8Check) : BuiltCopy s u k g c := by
  obtain rfl | ⟨code, hcls, rfl⟩ | ⟨g', c', hfit, hg, hc, hug, huc, rfl⟩ := execBuild_outcome h
  · cases hok
  · simp [(refusal_code hcls).1] at hok
  obtain rfl := Option.some.inj (hin.buildId_eq.symm.trans hg)
  obtain rfl := Option.some.inj (hin.buildCmd_eq.symm.trans hc)
  rw [keyS_eq hk] at hcopy hlen
  have hheld := holds_writePacket hfit hg hc k
  have hout := writePacket_outLen_toNat s (signedPacket_length_le hfit hg hc k)
  rw [signedPacket_length] at hout
  rw [finish_outLen, hout] at hcopy hlen
  rw [finish_mem] at hcopy
  have hcopied := holds_of_copy hheld (by simp) hcopy
  rw [holds_append, wireUnsigned_length] at hcopied
  exact
    { fits := by rw [hin.idLength, hin.cmdLength]; exact hfit
      count := hlen
      rawHeld := hcopied.1
      tagHeld := hcopied.2
      idUtf8 := fun hu => hug (hutf ▸ hu)
      cmdUtf8 := fun hu => huc (hutf ▸ hu) }

theorem BuiltCopy.parseState_eq {s u : State} {k g c : List Byte} (h : BuiltCopy s u k g c) :
    parseState u = .ok (wireFields s.apid s.seq s.tsLatch g.length c.length u.inLen.toNat) :=
  parseState_of_wire h.rawHeld h.fits h.count h.idUtf8 h.cmdUtf8

theorem BuiltCopy.rawLen_eq {s u : State} {k g c : List Byte} (h : BuiltCopy s u k g c) :
    u.inLen.toNat - 32 = g.length + c.length + 18 := by
  rw [h.count]
  omega

/-- Settles O42: the copy parses to the fields of the wire format, and its trailer is the tag of what stands before. -/
theorem builtPacketParses : Obligations.BuiltPacketParses := by
  unfold Obligations.BuiltPacketParses
  intro s t u k g c hk h hok hgl hcl hg hc hcopy hlen hutf
  have hcp := builtCopy_of_build hk h hok ⟨hgl, hcl, hg, hc⟩ hcopy hlen hutf
  obtain ⟨hid, hcmd⟩ := holds_wireStrings hcp.rawHeld
  have hfits := hcp.fits
  have hraw := hcp.rawLen_eq
  have hoff : (BitVec.ofNat 17 (u.inLen.toNat - 32)).toNat = g.length + c.length + 18 := by
    rw [hraw]
    exact Nat.mod_eq_of_lt (by omega)
  refine ⟨_, execParse_of_ok hcp.parseState_eq, rfl, rfl, rfl, rfl, hi_append_lo _, Nat.mod_eq_of_lt (by omega), hid,
    Nat.mod_eq_of_lt (by omega), hcmd, hoff.trans (hlen ▸ hraw.symm), wireUnsigned s.apid s.seq s.tsLatch g c,
    macTag k (wireUnsigned s.apid s.seq s.tsLatch g c), ?_, macTag_length _ _, hcp.rawHeld, ?_, ?_⟩
  · exact (wireUnsigned_length ..).trans hoff.symm
  · exact hoff.symm ▸ hcp.tagHeld
  · exact (verify_iff _ _ _).mpr rfl

/-- INSPECT of a packet that parses and is listed decides by its tag (R290). -/
theorem execInspect_listed {s : State} {r : ParsedFields} {g m t : List Byte} (hl : s.ctrl.lock = true)
    (hp : parseState s = .ok r) (hg : bufRead s.mem .inb 16 r.idLen.toNat = some g) (hin : inAllowList s g = true)
    (hm : bufRead s.mem .inb 0 r.rawLen = some m) (ht : bufRead s.mem .inb r.rawLen 32 = some t) :
    execInspect s =
      if macTag (keyV s) m = t then .next (finish (writeParsed (copySource s) r) .ok .accepted)
      else .next (finish (writeParsed (copySource s) r) .authFailed .authFailed) := by
  simp [execInspect_of_ok hl hp, inspectParsed, hg, hin, hm, ht, verify_iff]

/-- Tags as byte strings are equal exactly when MacFn's values are. -/
theorem macTag_eq_iff {k k' m m' : List Byte} : macTag k m = macTag k' m' ↔ Config.macFn k m = Config.macFn k' m' :=
  Vector.toList_inj

/-- Settles O43: INSPECT reads the ID, the signed bytes and the tag back from the copy, and the allow-list decides before
the tag. -/
theorem builtPacketInspected : Obligations.BuiltPacketInspected := by
  unfold Obligations.BuiltPacketInspected
  intro s t u k1 k2 g c hk hv h hok hgl hcl hg hc hcopy hlen hutf hl raw
  have hcp := builtCopy_of_build hk h hok ⟨hgl, hcl, hg, hc⟩ hcopy hlen hutf
  have hp := hcp.parseState_eq
  have hfits := hcp.fits
  have hid : bufRead u.mem .inb 16 (BitVec.ofNat 16 g.length).toNat = some g :=
    inbRead_of_holds (Nat.mod_eq_of_lt (by omega)).symm (holds_wireStrings hcp.rawHeld).1
  cases hin : inAllowList u g with
  | false =>
    exact ⟨_, execInspect_unlisted hl hp hid hin, rfl, fun _ => ⟨rfl, rfl⟩, fun hlisted => (nomatch hlisted)⟩
  | true =>
    have hraw : bufRead u.mem .inb 0 (u.inLen.toNat - 32) = some raw :=
      inbRead_of_holds ((wireUnsigned_length ..).trans hcp.rawLen_eq.symm) hcp.rawHeld
    have htag : bufRead u.mem .inb (u.inLen.toNat - 32) 32 = some (macTag k1 raw) :=
      inbRead_of_holds (macTag_length _ _) (hcp.rawLen_eq ▸ hcp.tagHeld)
    have hdecide := execInspect_listed hl hp hid hin hraw htag
    rw [keyV_eq hv] at hdecide
    simp only [macTag_eq_iff] at hdecide
    split at hdecide
    next heq => exact ⟨_, hdecide, rfl, fun hno => (nomatch hno), fun _ => by simp [heq, ResultCode.bits]⟩
    next hne => exact ⟨_, hdecide, rfl, fun hno => (nomatch hno), fun _ => by simp [hne, ResultCode.bits]⟩

end Machine
end Sys2Proof
end

section
/-! SUPPORT. The statements of 42_parse.md about packets that parse: what PARSE reports of the wire format, and that the
fields of a Parsed Packet re-serialise to the bytes in IN_BUF. -/

namespace Sys2Proof
namespace Machine

/-! ### The P_* group of the wire format -/

/-- The fields of the wire format in the P_* group, for an ID whose length fits its register (R264). -/
theorem parsedOf_wireFields (apid : BitVec 11) (seq : BitVec 14) (ts : BitVec 64) {lid : Nat} (lc n : Nat)
    (hlid : lid < 65536) : parsedOf (wireFields apid seq ts lid lc n) = wireParsed apid seq ts lid lc n := by
  have hid : (BitVec.ofNat 16 lid).toNat = lid := Nat.mod_eq_of_lt hlid
  simp only [parsedOf, wireFields, wireParsed, hid]

/-- PARSE of a packet that parses to the fields of the wire format (R264, R322). -/
theorem exec_parse_of_wireFields {s : State} {apid : BitVec 11} {seq : BitVec 14} {ts : BitVec 64} {lid lc n : Nat}
    (hlid : lid < 65536) (h : parseState s = .ok (wireFields apid seq ts lid lc n)) :
    exec .parse s =
      .next { s with
        parsed := wireParsed apid seq ts lid lc n
        status := { Status.zero with done := true, ok := true }
        irqStatus := { s.irqStatus with done := true } } := by
  rw [exec, execParse_of_ok h, finish_ok, writeParsed, parsedOf_wireFields apid seq ts lc n hlid]

/-- Settles O24: a packet of the wire format parses, and PARSE writes its fields to the P_* group. -/
theorem parseReadsWireFormat : Obligations.ParseReadsWireFormat := by
  unfold Obligations.ParseReadsWireFormat
  intro s apid seq ts g c trailer _ hfit hn hheld hug huc
  exact exec_parse_of_wireFields (by omega) (parseState_of_wire (holds_append.mp hheld).1 hfit hn hug huc)

/-! ### Well-framed packets -/

/-- In a well-framed packet ParseCore is at steps 5 to 9 on the span, which IN_BUF holds from byte 6 on (R251). -/
theorem Framed.parseState_eq {s : State} {apid : BitVec 11} {seq : BitVec 14} {span trailer : List Byte}
    (h : Framed s apid seq span trailer) :
    parseState s = parseSpan s.mem (span.length + 38) s.ctrl.utf8Check s.ctrl.trailCheck (3#5 ++ apid) (3#2 ++ seq) ∧
      Holds s.mem (0x60000 + 6) span := by
  obtain ⟨hcore, hspan, -⟩ := parseCore_framed h.held h.span_fits
  exact ⟨by rw [parseState, h.count, hcore], hspan⟩

/-- Settles O29: `parseSpan_of_span` with TRAIL_CHECK = 0, which lets any bytes follow the command string. -/
theorem trailingBytesAllowedWhenUnchecked : Obligations.TrailingBytesAllowedWhenUnchecked := by
  unfold Obligations.TrailingBytesAllowedWhenUnchecked
  intro s apid seq ts g c extra trailer hframed hg hc hunchecked hug huc
  obtain ⟨hparse, hspan⟩ := hframed.parseState_eq
  have hcount := hframed.count
  have hfields : Holds s.mem (0x60000 + 6) (enc64 ts.toNat ++ enc16 g.length ++ (g ++ (enc16 c.length ++ c))) := by
    simpa only [List.append_assoc] using (holds_append.mp hspan).1
  refine exec_parse_of_wireFields hg ?_
  rw [hparse, ← hcount]
  refine parseSpan_of_span hfields hg hc hug huc ?_ fun hchecked => ?_
  · rw [hcount]
    simp only [List.length_append, enc64_length, enc16_length]
    omega
  · simp [hunchecked] at hchecked

/-! ### Re-serialising -/

/-- A two-byte read of IN_BUF holds the encoding of the number it spells. -/
theorem holds_enc16_of_read {m : Memory} {off : Nat} {b : List Byte} (h : bufRead m .inb off 2 = some b) :
    Holds m (0x60000 + off) (enc16 (be16 b).toNat) := by
  obtain ⟨hlen, hheld⟩ := bufRead_eq_some.mp h
  rwa [enc16_be16 hlen]

/-- Steps 1 to 4 let a packet pass only with the primary header of the wire format for its fields (R253 to R255). -/
theorem parseCore_ok_header {m : Memory} {n : Nat} {u t : Bool} {r : ParsedFields} (h : parseCore m n u t = .ok r) :
    ∃ pl < 65536, pl + 7 = n ∧ Holds m 0x60000 (wireHeader r.apid r.seq pl) := by
  obtain ⟨b1, b2, b3, h1, h2, h3, hheader, hflags, hlen, hspan⟩ := parseCore_ok h
  obtain ⟨_, _, _, _, _, -, -, -, -, -, -, -, -, -, -, hapid, hseq, -⟩ := parseSpan_ok hspan
  have hw1 := holds_enc16_of_read h1
  have hw2 := holds_enc16_of_read h2
  rw [← headerWord1_eq hheader, ← hapid] at hw1
  rw [← headerWord2_eq hflags, ← hseq] at hw2
  refine ⟨(be16 b3).toNat, (be16 b3).isLt, hlen, ?_⟩
  simp only [wireHeader, holds_append, List.length_append, enc16_length]
  exact ⟨⟨hw1, hw2⟩, holds_enc16_of_read h3⟩

/-- Steps 5 to 9 let a span pass only when it begins with the secondary header and the payload of the wire format, and
under TRAIL_CHECK = 1 only when it ends there too (R256 to R263). -/
theorem parseSpan_ok_span {m : Memory} {n : Nat} {u t : Bool} {w1 w2 : BitVec 16} {r : ParsedFields}
    (h : parseSpan m n u t w1 w2 = .ok r) :
    ∃ g c : List Byte, g.length = r.idLen.toNat ∧ c.length = r.cmdLen.toNat ∧
      (t = true → 50 + g.length + c.length = n) ∧
      Holds m (0x60000 + 6) (enc64 r.ts.toNat ++ enc16 g.length ++ (g ++ (enc16 c.length ++ c))) := by
  obtain ⟨tsBytes, idLenBytes, g, cmdLenBytes, c, -, hts, hil, hg, hcl, hc, -, -, -, hend, -, -, htsEq, hidLen, hcmdLen,
    -⟩ := parseSpan_ok h
  obtain ⟨htsLen, htsHeld⟩ := bufRead_eq_some.mp hts
  obtain ⟨hgLen, hgHeld⟩ := bufRead_eq_some.mp hg
  obtain ⟨hcLen, hcHeld⟩ := bufRead_eq_some.mp hc
  have hidLenHeld := holds_enc16_of_read hil
  have hcmdLenHeld := holds_enc16_of_read hcl
  rw [← enc64_be64 htsLen, ← htsEq] at htsHeld
  rw [← hidLen, ← hgLen] at hidLenHeld
  rw [← hcmdLen, ← hcLen, ← hgLen, ← Nat.add_assoc] at hcmdLenHeld
  rw [← hgLen, base_inb, show 0x60000 + (18 + g.length) = 0x60000 + 16 + g.length + 2 by omega] at hcHeld
  refine ⟨g, c, hgLen, hcLen, fun ht => by rw [hgLen, hcLen]; exact hend ht, ?_⟩
  simp only [holds_append, List.length_append, enc16_length, enc64_length]
  exact ⟨⟨htsHeld, hidLenHeld⟩, hgHeld, hcmdLenHeld, hcHeld⟩

/-- A parse that succeeds under TRAIL_CHECK = 1 has read the wire format of its own fields (R263). -/
theorem parseState_ok_wire {s : State} {r : ParsedFields} (h : parseState s = .ok r)
    (htrail : s.ctrl.trailCheck = true) :
    ∃ g c : List Byte, g.length = r.idLen.toNat ∧ c.length = r.cmdLen.toNat ∧
      s.inLen.toNat = g.length + c.length + 50 ∧ g.length + c.length ≤ 65492 ∧
      Holds s.mem 0x60000 (wireUnsigned r.apid r.seq r.ts g c) := by
  obtain ⟨pl, hpl, hn, hheader⟩ := parseCore_ok_header h
  obtain ⟨b1, b2, b3, -, -, -, -, -, -, hspan⟩ := parseCore_ok h
  obtain ⟨g, c, hg, hc, hend, hheld⟩ := parseSpan_ok_span hspan
  have hend := hend htrail
  obtain rfl : pl = g.length + c.length + 43 := by omega
  refine ⟨g, c, hg, hc, by unfold inCount at hn; omega, by omega, ?_⟩
  rw [wireUnsigned_eq, holds_append, wireHeader_length]
  exact ⟨hheader, hheld⟩

/-- Settles O25: what was read is the wire format of the fields, and the P_* group says where its strings are. -/
theorem parsedPacketReserialises : Obligations.ParsedPacketReserialises := by
  unfold Obligations.ParsedPacketReserialises
  intro s t h hok htrail
  obtain ⟨code, -, hcls, rfl⟩ | ⟨r, hp, rfl⟩ := execParse_cases h
  · simp [(structural_bits hcls).2.2] at hok
  · obtain ⟨g, c, hg, hc, hn, hfit, hheld⟩ := parseState_ok_wire hp htrail
    obtain ⟨hid, hcmd⟩ := holds_wireStrings hheld
    have hraw := rawLen_of_parseState hp
    have hrawReg : (BitVec.ofNat 17 r.rawLen).toNat = r.rawLen := Nat.mod_eq_of_lt (by omega)
    have hcmdReg : (BitVec.ofNat 17 (18 + r.idLen.toNat)).toNat = 18 + g.length := by
      rw [← hg]
      exact Nat.mod_eq_of_lt (by omega)
    simp only [finish_parsed, writeParsed_parsed, parsedOf, hi_append_lo, hrawReg, hcmdReg]
    refine ⟨g, c, hg, hc, hid, by rwa [← Nat.add_assoc], hraw, ?_, hheld⟩
    rw [wireUnsigned_length]
    omega

end Machine
end Sys2Proof
end

section
/-! SUPPORT. The statements of 42_parse.md about packets that do not parse: the verdict of each step of ParseCore, in
the order of the steps. -/

namespace Sys2Proof
namespace Machine

/-! ### A failed PARSE -/

/-- The state of a PARSE that failed with a structural code (R265, R322). -/
theorem exec_parse_of_err {s : State} {code : ResultCode} (h : parseState s = .err code) :
    exec .parse s =
      .next { s with
        parsed := ParsedRegs.zero
        status := { Status.zero with done := true, result := code.bits, cls := 1 }
        irqStatus := { s.irqStatus with done := true } } := by
  have hcls := parseCore_err h
  have hne := (structural_bits hcls).2.2
  simp only [exec, execParse, h]
  rw [finish, afterCompletion_none _ (by simp [hcls]), Status.completed, decide_eq_false hne, hcls]
  rfl

/-! ### Steps 1 to 4 -/

/-- Step 1 (R252). -/
theorem parseCore_tooShort {m : Memory} {n : Nat} {u t : Bool} (hn : n < 38) : parseCore m n u t = .err .tooShort :=
  if_pos hn

/-- Settles O26: step 1 comes before every read. -/
theorem shortInputIsTooShort : Obligations.ShortInputIsTooShort := by
  unfold Obligations.ShortInputIsTooShort
  exact fun s hn => exec_parse_of_err (parseCore_tooShort hn)

/-- Steps 2 to 4 on the three header words, each read once the words before it have passed (R253 to R255). -/
theorem parseCore_headerErr {m : Memory} {n : Nat} {u t : Bool} {b1 : List Byte} (hn : 38 ≤ n)
    (h1 : bufRead m .inb 0 2 = some b1) :
    (headerBad (be16 b1) = true → parseCore m n u t = .err .badHeader) ∧
    ∀ b2, headerBad (be16 b1) = false → bufRead m .inb 2 2 = some b2 →
      (flagsBad (be16 b2) = true → parseCore m n u t = .err .fragmented) ∧
      ∀ b3, flagsBad (be16 b2) = false → bufRead m .inb 4 2 = some b3 → (be16 b3).toNat + 7 ≠ n →
        parseCore m n u t = .err .lengthMismatch := by
  simp only [parseCore, Config.parseMin_eq]
  rw [if_neg (Nat.not_lt_of_le hn), h1]
  refine ⟨fun hbad => if_pos hbad, fun b2 hgood h2 => ?_⟩
  simp only [hgood, Bool.false_eq_true, if_false, h2]
  refine ⟨fun hbad => if_pos hbad, fun b3 hgood h3 hlen => ?_⟩
  simp only [hgood, Bool.false_eq_true, if_false, h3]
  exact if_pos hlen

/-- A two-byte word is its bytes, the first one on top (R11). -/
theorem be16_pair (a b : Byte) : be16 [a, b] = a ++ b := by
  apply BitVec.eq_of_toNat_eq
  have ha := a.isLt
  have hb := b.isLt
  rw [BitVec.toNat_append, ← Nat.shiftLeft_add_eq_or_of_lt hb, Nat.shiftLeft_eq, be16, BitVec.toNat_ofNat]
  simp only [beNat, List.foldl_cons, List.foldl_nil]
  omega

theorem be16_pair_toNat (a b : Byte) : (be16 [a, b]).toNat = 256 * a.toNat + b.toNat := by
  rw [be16_pair, BitVec.toNat_append, ← Nat.shiftLeft_add_eq_or_of_lt b.isLt, Nat.shiftLeft_eq, Nat.mul_comm]

/-- A one-bit field is set exactly when its bit is. -/
theorem extractLsb'_one_eq_one_iff {w : Nat} (x : BitVec w) (k : Nat) : x.extractLsb' k 1 = 1 ↔ x.getLsbD k = true := by
  have hbit : (x.extractLsb' k 1).getLsbD 0 = x.getLsbD k := by simp
  rw [← hbit]
  generalize x.extractLsb' k 1 = b
  revert b
  decide

/-- The fields of step 2 in byte 0 (R151, R253). -/
theorem headerBad_pair_iff (a b : Byte) :
    headerBad (be16 [a, b]) = false ↔ a.extractLsb' 5 3 = 0 ∧ a.getLsbD 4 = true ∧ a.getLsbD 3 = true := by
  rw [headerBad_eq_false_iff, be16_pair]
  simp only [extractLsb'_one_eq_one_iff, BitVec.extractLsb'_append_eq_of_le (w := 8) (start := 13) (by decide),
    BitVec.getLsbD_append]
  simp

/-- The field of step 3 in byte 2 (R152, R254). -/
theorem flagsBad_pair_iff (a b : Byte) : flagsBad (be16 [a, b]) = false ↔ a.extractLsb' 6 2 = 3 := by
  rw [flagsBad_eq_false_iff, be16_pair, BitVec.extractLsb'_append_eq_of_le (by decide)]

/-- Settles O27: `parseCore_headerErr` on the bytes of the three words. -/
theorem primaryHeaderVerdicts : Obligations.PrimaryHeaderVerdicts := by
  unfold Obligations.PrimaryHeaderVerdicts
  intro s b0 b1 b2 b3 b4 b5 hn
  refine ⟨fun hheld hbad => ?_, fun hheld hgood hbad => ?_, fun hheld hgood hflags hlen => ?_⟩
  · obtain ⟨-, h1⟩ := holds_inb_append (p := []) hheld
    refine exec_parse_of_err ((parseCore_headerErr hn h1).1 ?_)
    rwa [← Bool.not_eq_false, headerBad_pair_iff]
  · obtain ⟨hheld, h2⟩ := holds_inb_append (p := [b0, b1]) hheld
    obtain ⟨-, h1⟩ := holds_inb_append (p := []) hheld
    refine exec_parse_of_err (((parseCore_headerErr hn h1).2 _ ((headerBad_pair_iff b0 b1).mpr hgood) h2).1 ?_)
    rwa [← Bool.not_eq_false, flagsBad_pair_iff]
  · obtain ⟨hheld, h3⟩ := holds_inb_append (p := [b0, b1, b2, b3]) hheld
    obtain ⟨hheld, h2⟩ := holds_inb_append (p := [b0, b1]) hheld
    obtain ⟨-, h1⟩ := holds_inb_append (p := []) hheld
    refine exec_parse_of_err (((parseCore_headerErr hn h1).2 _ ((headerBad_pair_iff b0 b1).mpr hgood) h2).2 _
      ((flagsBad_pair_iff b2 b3).mpr hflags) h3 ?_)
    rwa [be16_pair_toNat]

/-- Settles O30: past the buffer packet_length cannot agree with IN_LEN, so one of the three verdicts of O27 falls. -/
theorem lengthPastBufferIsRejected : Obligations.LengthPastBufferIsRejected := by
  unfold Obligations.LengthPastBufferIsRejected
  intro s b hn hlen hheld
  match b, hlen with
  | [b0, b1, b2, b3, b4, b5], _ =>
    have hfour := (holds_append (s := [b0, b1, b2, b3]) (t := [b4, b5])).mp hheld
    have htwo := (holds_append (s := [b0, b1]) (t := [b2, b3])).mp hfour.1
    obtain ⟨hheader, hflags, hlength⟩ := primaryHeaderVerdicts s b0 b1 b2 b3 b4 b5 (by omega)
    by_cases hgood : b0.extractLsb' 5 3 = 0 ∧ b0.getLsbD 4 = true ∧ b0.getLsbD 3 = true
    · by_cases hthree : b2.extractLsb' 6 2 = 3
      · have h4 := b4.isLt
        have h5 := b5.isLt
        exact ⟨_, .inr (.inr rfl), hlength hheld hgood hthree (by omega)⟩
      · exact ⟨_, .inr (.inl rfl), hflags hfour.1 hgood hthree⟩
    · exact ⟨_, .inl rfl, hheader htwo.1 hgood⟩

/-! ### Steps 5 to 9 -/

/-- Step 5 (R256). -/
theorem parseSpan_secHdrTruncated {m : Memory} {n : Nat} {u t : Bool} {w1 w2 : BitVec 16} (hn : n < 48) :
    parseSpan m n u t w1 w2 = .err .secHdrTruncated :=
  if_pos (by simp only [Config.hdrLen_eq, Config.digestLen_eq, Config.secFixed_eq]; omega)

/-- A string that does not pass its UTF-8 check is refused. -/
theorem utf8_refused {u : Bool} {g : List Byte} (h : ¬ (u = true → wellFormedUtf8 g = true)) :
    (u && !wellFormedUtf8 g) = true := by
  simpa using h

/-- Steps 6 to 9 on the ID length, the ID, the command length and the command string, each read once what came before it
has passed (R257 to R263). -/
theorem parseSpan_errs {m : Memory} {n : Nat} {u t : Bool} {w1 w2 : BitVec 16} {tsBytes : List Byte} {lid : Nat}
    (hn : 48 ≤ n) (hlid : lid < 65536) (hts : bufRead m .inb 6 8 = some tsBytes)
    (hil : bufRead m .inb 14 2 = some (enc16 lid)) :
    (n < 48 + lid → parseSpan m n u t w1 w2 = .err .idIncomplete) ∧
    ∀ g, bufRead m .inb 16 lid = some g → 48 + lid ≤ n →
      (¬ (u = true → wellFormedUtf8 g = true) → parseSpan m n u t w1 w2 = .err .idNotUtf8) ∧
      ((u = true → wellFormedUtf8 g = true) →
        (n < 50 + lid → parseSpan m n u t w1 w2 = .err .cmdLenMissing) ∧
        ∀ lc < 65536, bufRead m .inb (16 + lid) 2 = some (enc16 lc) → 50 + lid ≤ n →
          (n < 50 + lid + lc → parseSpan m n u t w1 w2 = .err .cmdTruncated) ∧
          ∀ c, bufRead m .inb (18 + lid) lc = some c → 50 + lid + lc ≤ n →
            (¬ (u = true → wellFormedUtf8 c = true) → parseSpan m n u t w1 w2 = .err .cmdNotUtf8) ∧
            ((u = true → wellFormedUtf8 c = true) → t = true → 50 + lid + lc ≠ n →
              parseSpan m n u t w1 w2 = .err .trailingBytes)) := by
  simp only [parseSpan, Config.hdrLen_eq, Config.digestLen_eq, Config.secFixed_eq]
  rw [if_neg (by omega), hts, hil]
  simp only [be16_enc16 hlid]
  refine ⟨fun hshort => if_pos (by omega), fun g hg hidFits => ?_⟩
  rw [if_neg (by omega), hg]
  refine ⟨fun hbad => if_pos (utf8_refused hbad), fun hgood => ?_⟩
  simp only [if_neg (utf8_not_refused hgood)]
  refine ⟨fun hshort => if_pos (by omega), fun lc hlc hcl hlenFits => ?_⟩
  rw [if_neg (by omega), hcl]
  simp only [be16_enc16 hlc]
  refine ⟨fun hshort => if_pos (by omega), fun c hc hcmdFits => ?_⟩
  rw [if_neg (by omega), hc]
  refine ⟨fun hbad => if_pos (utf8_refused hbad), fun hgood htrail hend => ?_⟩
  simp only [if_neg (utf8_not_refused hgood)]
  exact if_pos (by simp only [htrail, Bool.true_and, decide_eq_true_eq]; omega)

/-- The command length at the head of what follows the ID, and where the rest of it lies. -/
theorem payload_head {m : Memory} {lid lc : Nat} {more : List Byte}
    (h : Holds m (0x60000 + 16 + lid) (enc16 lc ++ more)) :
    bufRead m .inb (16 + lid) 2 = some (enc16 lc) ∧ Holds m (0x60000 + (18 + lid)) more := by
  rw [holds_append, enc16_length, show 0x60000 + 16 + lid + 2 = 0x60000 + (18 + lid) by omega, Nat.add_assoc] at h
  exact ⟨inbRead_of_holds (enc16_length lc) h.1, h.2⟩

/-- Settles O28: `parseSpan_errs` on the strings that the span holds, its reads found by their offsets. -/
theorem spanVerdicts : Obligations.SpanVerdicts := by
  unfold Obligations.SpanVerdicts
  intro s apid seq span trailer hframed failsWith
  obtain ⟨hparse, hspan⟩ := hframed.parseState_eq
  have fails {code : ResultCode} (h : parseSpan s.mem (span.length + 38) s.ctrl.utf8Check s.ctrl.trailCheck
      (3#5 ++ apid) (3#2 ++ seq) = .err code) : failsWith code.bits := exec_parse_of_err (hparse.trans h)
  refine ⟨fun hshort => fails (parseSpan_secHdrTruncated (by omega)), fun ts lid rest hlid hsplit hrest => ?_,
    fun ts g rest hg hsplit => ?_⟩
  · have hlen := congrArg List.length hsplit
    simp only [List.length_append, enc64_length, enc16_length] at hlen
    obtain ⟨hts, hil, -⟩ := span_head (hsplit ▸ hspan)
    exact fails ((parseSpan_errs (by omega) hlid hts hil).1 (by omega))
  · have hlen := congrArg List.length hsplit
    simp only [List.length_append, enc64_length, enc16_length] at hlen
    rw [hsplit, List.append_assoc (enc64 ts.toNat ++ enc16 g.length)] at hspan
    obtain ⟨hts, hil, hbody⟩ := span_head hspan
    obtain ⟨hidHeld, hrest⟩ := holds_append.mp hbody
    obtain ⟨badId, goodId⟩ := (parseSpan_errs (u := s.ctrl.utf8Check) (t := s.ctrl.trailCheck) (w1 := 3#5 ++ apid)
      (w2 := 3#2 ++ seq) (n := span.length + 38) (by omega) hg hts hil).2 g (inbRead_of_holds rfl hidHeld) (by omega)
    refine ⟨fun hbad => fails (badId hbad), fun hgood hshort => fails ((goodId hgood).1 (by omega)),
      fun lc more hgood hlc hrestEq hshort => ?_, fun c extra hgood hc hrestEq => ?_⟩
    · rw [hrestEq] at hrest hlen
      rw [List.length_append, enc16_length] at hlen
      exact fails (((goodId hgood).2 lc hlc (payload_head hrest).1 (by omega)).1 (by omega))
    · rw [hrestEq, List.append_assoc] at hrest hlen
      simp only [List.length_append, enc16_length] at hlen
      obtain ⟨hcl, hcmd⟩ := payload_head hrest
      obtain ⟨badCmd, goodCmd⟩ := ((goodId hgood).2 c.length hc hcl (by omega)).2 c
        (inbRead_of_holds rfl (holds_append.mp hcmd).1) (by omega)
      refine ⟨fun hbad => fails (badCmd hbad), fun hcmdGood htrail hextra => fails (goodCmd hcmdGood htrail ?_)⟩
      have := List.length_pos_of_ne_nil hextra
      omega

end Machine
end Sys2Proof
end

section
/-! SUPPORT. The statements of 42_parse.md about what the parser depends on: ParseCore on the bytes before the tag, and
the UTF-8 check on the byte sequences of its table. -/

namespace Sys2Proof
namespace Machine

/-! ### The bytes ParseCore reads -/

/-- A read of IN_BUF within its first `N` bytes is the same in two memories that agree on those. -/
theorem inbRead_congr {m m' : Memory} {N off k : Nat}
    (h : ∀ j < N, Memory.read m (0x60000 + j) = Memory.read m' (0x60000 + j)) (hk : off + k ≤ N) :
    bufRead m .inb off k = bufRead m' .inb off k :=
  bytes_congr fun j hj => by
    rw [base_inb, Nat.add_assoc]
    exact h (off + j) (by omega)

/-- Steps 5 to 9 read no byte of the tag (R269): each read lies in the span by the step before it. -/
theorem parseSpan_congr {m m' : Memory} {n : Nat} {u t : Bool} {w1 w2 : BitVec 16}
    (h : ∀ k < n - 32, Memory.read m (0x60000 + k) = Memory.read m' (0x60000 + k)) :
    parseSpan m n u t w1 w2 = parseSpan m' n u t w1 w2 := by
  simp only [parseSpan, Config.hdrLen_eq, Config.digestLen_eq, Config.secFixed_eq]
  split
  · rfl
  rw [inbRead_congr h (off := 6) (k := 8) (by omega), inbRead_congr h (off := 14) (k := 2) (by omega)]
  split
  next tsBytes idLenBytes hts hil =>
    split
    · rfl
    rw [inbRead_congr h (off := 16) (by omega)]
    split
    · rfl
    split
    · rfl
    split
    · rfl
    rw [inbRead_congr h (off := 16 + _) (by omega)]
    split
    · rfl
    split
    · rfl
    rw [inbRead_congr h (off := 18 + _) (by omega)]
  · rfl

/-- Settles O32: the header lies in the first six bytes, and steps 5 to 9 are reached only by a packet that fits the
buffer. -/
theorem parseReadsOnlySpan : Obligations.ParseReadsOnlySpan := by
  unfold Obligations.ParseReadsOnlySpan
  intro m m' n u t h
  simp only [parseCore, Config.parseMin_eq]
  split
  · rfl
  next hn =>
  have hsix : 6 ≤ if n ≤ 65544 then n - 32 else 6 := by split <;> omega
  rw [inbRead_congr h (off := 0) (k := 2) (by omega), inbRead_congr h (off := 2) (k := 2) (by omega),
    inbRead_congr h (off := 4) (k := 2) (by omega)]
  split
  · rfl
  split
  · rfl
  split
  · rfl
  split
  · rfl
  split
  · rfl
  next b3 _ =>
  split
  · rfl
  next hlen =>
  have hpl := (be16 b3).isLt
  rw [if_pos (by omega)] at h
  exact parseSpan_congr h

/-! ### UTF-8 -/

/-- The bytes of a string lie in the given ranges, one for one. -/
abbrev InRanges (ranges : List ByteRange) (s : List Byte) : Prop := List.Forall₂ (fun r b => r.has b = true) ranges s

/-- With ranges still pending, the scan takes one byte for each and starts afresh. -/
theorem utf8Scan_iff (pending : List ByteRange) (s : List Byte) :
    utf8Scan pending s = true ↔ ∃ p rest, s = p ++ rest ∧ InRanges pending p ∧ wellFormedUtf8 rest = true := by
  induction pending generalizing s with
  | nil => simp [InRanges, wellFormedUtf8]
  | cons r pending ih =>
    cases s with
    | nil => simp [InRanges, utf8Scan, List.forall₂_cons_left_iff]
    | cons b s =>
      simp only [utf8Scan, Bool.and_eq_true, ih, InRanges, List.forall₂_cons_left_iff]
      constructor
      · rintro ⟨hb, p, rest, rfl, hp, hrest⟩
        exact ⟨b :: p, rest, rfl, ⟨b, p, hb, hp, rfl⟩, hrest⟩
      · rintro ⟨_, rest, heq, ⟨b', p, hb, hp, rfl⟩, hrest⟩
        obtain ⟨rfl, rfl⟩ := List.cons.inj heq
        exact ⟨hb, p, rest, rfl, hp, hrest⟩

/-- No byte begins the sequences of two rows, so a lead byte asks for what its row says. -/
theorem utf8After_of_row : ∀ b : Byte, ∀ row ∈ utf8Rows, row.first.has b = true → utf8After b = some row.rest := by
  decide +kernel

theorem utf8After_eq_some_iff {b : Byte} {ranges : List ByteRange} :
    utf8After b = some ranges ↔ ∃ row ∈ utf8Rows, row.first.has b = true ∧ row.rest = ranges := by
  constructor
  · intro h
    obtain ⟨row, hfind, hrest⟩ := Option.map_eq_some_iff.mp h
    exact ⟨row, List.mem_of_find?_eq_some hfind, List.find?_some (p := fun r : Utf8Row => r.first.has b) hfind, hrest⟩
  · rintro ⟨row, hrow, hb, rfl⟩
    exact utf8After_of_row b row hrow hb

/-- The table written out and the table of the scan are the same (R262). -/
theorem utf8Sequence_cons_iff (b : Byte) (p : List Byte) :
    Utf8Sequence (b :: p) ↔ ∃ row ∈ utf8Rows, row.first.has b = true ∧ InRanges row.rest p := by
  match p with
  | [] | [_] | _ :: _ :: _ :: _ :: _ => simp [Utf8Sequence, utf8Rows, utf8Tail, ByteRange.has, InRanges]
  | [_, _] | [_, _, _] =>
    simp [Utf8Sequence, utf8Rows, utf8Tail, ByteRange.has, InRanges]
    omega

/-- A string is well formed when it begins with a sequence of the table and the rest is well formed. -/
theorem wellFormedUtf8_cons_iff (b : Byte) (s : List Byte) :
    wellFormedUtf8 (b :: s) = true ↔
      ∃ p rest, s = p ++ rest ∧ Utf8Sequence (b :: p) ∧ wellFormedUtf8 rest = true := by
  have hscan : wellFormedUtf8 (b :: s) = true ↔ ∃ ranges, utf8After b = some ranges ∧ utf8Scan ranges s = true := by
    rw [wellFormedUtf8, utf8Scan]
    cases utf8After b <;> simp
  simp only [hscan, utf8Scan_iff, utf8After_eq_some_iff, utf8Sequence_cons_iff]
  constructor
  · rintro ⟨_, ⟨row, hrow, hb, rfl⟩, p, rest, hs, hp, hrest⟩
    exact ⟨p, rest, hs, ⟨row, hrow, hb, hp⟩, hrest⟩
  · rintro ⟨p, rest, hs, ⟨row, hrow, hb, hp⟩, hrest⟩
    exact ⟨row.rest, ⟨row, hrow, hb, rfl⟩, p, rest, hs, hp, hrest⟩

/-- A well-formed string splits into sequences of the table. -/
theorem sequences_of_wellFormedUtf8 :
    ∀ s : List Byte, wellFormedUtf8 s = true → ∃ seqs : List (List Byte), s = seqs.flatten ∧ ∀ q ∈ seqs, Utf8Sequence q
  | [], _ => ⟨[], rfl, by simp⟩
  | b :: s, h => by
    obtain ⟨p, rest, hs, hseq, hrest⟩ := (wellFormedUtf8_cons_iff b s).mp h
    have hshorter : rest.length < (b :: s).length := by simp [hs]
    obtain ⟨seqs, hflat, hseqs⟩ := sequences_of_wellFormedUtf8 rest hrest
    exact ⟨(b :: p) :: seqs, by rw [hs, hflat, List.flatten_cons, List.cons_append],
      List.forall_mem_cons.mpr ⟨hseq, hseqs⟩⟩
termination_by s => s.length

/-- Sequences of the table put together are a well-formed string. -/
theorem wellFormedUtf8_flatten (seqs : List (List Byte)) (h : ∀ q ∈ seqs, Utf8Sequence q) :
    wellFormedUtf8 seqs.flatten = true := by
  induction seqs with
  | nil => rfl
  | cons q seqs ih =>
    obtain ⟨hq, hseqs⟩ := List.forall_mem_cons.mp h
    cases q with
    | nil => exact hq.elim
    | cons b p => exact (wellFormedUtf8_cons_iff b _).mpr ⟨p, seqs.flatten, rfl, hq, ih hseqs⟩

/-- Settles O33: a well-formed string is taken apart and put together one sequence at a time. -/
theorem utf8IsConcatenationOfRows : Obligations.Utf8IsConcatenationOfRows := by
  unfold Obligations.Utf8IsConcatenationOfRows
  refine fun s => ⟨sequences_of_wellFormedUtf8 s, ?_⟩
  rintro ⟨seqs, rfl, hseqs⟩
  exact wellFormedUtf8_flatten seqs hseqs

end Machine
end Sys2Proof
end

section
/-! SUPPORT. The statements of 43_firewall.md: what INSPECT answers on a packet that parses and on one that does not,
what its decision depends on, and what becomes of an accepted packet that is tampered with. -/

namespace Sys2Proof
namespace Machine

/-! ### Completions with an event -/

/-- A DECODE_FAILURE is the completion with no event but for EVENT and SEVERITY (R172, R322). -/
theorem finish_decodeFailure (s : State) (code : ResultCode) :
    finish s code .decodeFailure =
      { finish s code .none with status := { Status.completed code .none with event := 1, severity := 2 } } := by
  simp [finish, Status.completed, Irq.afterCompletion, EventKind.bits, severityOf]

/-- A completion with a code outside class 5 leaves CMD_ERR, and its severity decides ALERT (R322). -/
theorem afterCompletion_event (q : Irq) {code : ResultCode} (ev : EventKind) (h : classOf code ≠ 5) :
    q.afterCompletion code ev = { q with done := true, alert := q.alert || decide (severityOf ev = 3) } := by
  rw [Irq.afterCompletion, decide_eq_false h, Bool.or_false]

/-- The state of a packet whose ID is not listed (R294, R322). -/
theorem finish_unauthorizedGs (s : State) :
    finish s .notAuthorized .unauthorizedGs =
      { s with
        status := { Status.zero with done := true, result := 0x10, cls := 2, event := 2, severity := 3 }
        irqStatus := { s.irqStatus with done := true, alert := true } } := by
  rw [finish, afterCompletion_event _ _ (by decide), decide_eq_true (by rfl), Bool.or_true]
  rfl

/-- The state of a packet whose tag does not verify (R296, R322). -/
theorem finish_authFailed_event (s : State) :
    finish s .authFailed .authFailed =
      { s with
        status := { Status.zero with done := true, result := 0x11, cls := 3, event := 3, severity := 3 }
        irqStatus := { s.irqStatus with done := true, alert := true } } := by
  rw [finish, afterCompletion_event _ _ (by decide), decide_eq_true (by rfl), Bool.or_true]
  rfl

/-- The state of an accepted packet (R295, R322). -/
theorem finish_accepted (s : State) :
    finish s .ok .accepted =
      { s with
        status := { Status.zero with done := true, ok := true, accept := true, event := 4, severity := 1 }
        irqStatus := { s.irqStatus with done := true } } := by
  rw [finish, afterCompletion_event _ _ (by decide), decide_eq_false (by decide), Bool.or_false]
  rfl

/-! ### The decision -/

/-- INSPECT of a packet that does not parse (R292). -/
theorem execInspect_of_err {s : State} {code : ResultCode} (hl : s.ctrl.lock = true) (hp : parseState s = .err code) :
    execInspect s = .next (finish (clearParsed (copySource s)) code .decodeFailure) := by
  simp [execInspect, hl, hp]

/-- Settles O36: a failed PARSE has a structural code, and INSPECT answers it with the same code. -/
theorem inspectReportsDecodeFailure : Obligations.InspectReportsDecodeFailure := by
  unfold Obligations.InspectReportsDecodeFailure
  intro s t hl h hfail
  obtain ⟨code, hp, -, rfl⟩ | ⟨r, -, rfl⟩ := execParse_cases h
  · rw [exec, execInspect_of_err hl hp, finish_decodeFailure]
    rfl
  · cases hfail

/-- Settles O35: the packet parses to the fields of the wire format, then the allow-list decides, then the tag. -/
theorem inspectDecides : Obligations.InspectDecides := by
  unfold Obligations.InspectDecides
  intro s apid seq ts k g c trailer hk hl hfit hn hheld hug huc decided
  obtain ⟨hrawHeld, htagHeld⟩ := holds_append.mp hheld
  have hrawLen : (wireUnsigned apid seq ts g c).length = s.inLen.toNat - 32 := by
    rw [wireUnsigned_length, hn]
    omega
  have hp := parseState_of_wire hrawHeld hfit hn hug huc
  have hid : bufRead s.mem .inb 16 (BitVec.ofNat 16 g.length).toNat = some g :=
    inbRead_of_holds (Nat.mod_eq_of_lt (by omega)).symm (holds_wireStrings hrawHeld).1
  have hraw : bufRead s.mem .inb 0 (s.inLen.toNat - 32) = some (wireUnsigned apid seq ts g c) :=
    inbRead_of_holds hrawLen hrawHeld
  have htag : bufRead s.mem .inb (s.inLen.toNat - 32) 32 = some trailer.toList :=
    inbRead_of_holds trailer.length_toList (hrawLen ▸ htagHeld)
  have hparsed := parsedOf_wireFields apid seq ts c.length s.inLen.toNat (show g.length < 65536 by omega)
  have verdict (hin : inAllowList s g = true) := execInspect_listed hl hp hid hin hraw htag
  simp only [keyV_eq hk, macTag, Vector.toList_inj, eq_comm (b := trailer)] at verdict
  refine ⟨fun hout => ?_, fun hin hne => ?_, fun hin heq => ?_⟩
  · exact (execInspect_unlisted hl hp hid hout).trans (by rw [finish_unauthorizedGs, writeParsed, hparsed]; rfl)
  · rw [if_neg hne] at verdict
    exact (verdict hin).trans (by rw [finish_authFailed_event, writeParsed, hparsed]; rfl)
  · rw [if_pos heq] at verdict
    exact (verdict hin).trans (by rw [finish_accepted, writeParsed, hparsed]; rfl)

/-! ### What the decision depends on -/

/-- KeyV depends on KEY_V_LEN and that many bytes of KEY_V (R71). -/
theorem keyV_congr {s s' : State} (hlen : s'.keyVLen = s.keyVLen)
    (h : ∀ k < s.keyVLen.toNat, Memory.read s'.mem (0x500 + k) = Memory.read s.mem (0x500 + k)) : keyV s' = keyV s := by
  rw [keyV, keyV, hlen]
  exact storeRead_congr h

/-- Membership depends on the control registers and, of each entry, the bytes within its LEN (R74). -/
theorem inAllowList_congr {s s' : State} (hctl : s'.allowCtl = s.allowCtl)
    (h : ∀ i : Fin 16, ∀ k < s.allowCtl[i].len.toNat,
      Memory.read s'.mem (0x1000 + 0x100 * i.val + k) = Memory.read s.mem (0x1000 + 0x100 * i.val + k)) :
    inAllowList s' = inAllowList s := by
  have hid (i : Fin 16) : allowId s' i = allowId s i := by
    rw [allowId, allowId, hctl]
    exact storeRead_congr (h i)
  have hentry (g : List Byte) : allowEntry s' g = allowEntry s g := by
    funext i
    rw [allowEntry, allowEntry, hctl, hid]
  funext g
  rw [inAllowList, inAllowList, hentry]

/-- ParseCore depends on IN_LEN, the two switches and the bytes before the tag (R269, R299). -/
theorem parseState_congr {s s' : State} (hutf : s'.ctrl.utf8Check = s.ctrl.utf8Check)
    (htrail : s'.ctrl.trailCheck = s.ctrl.trailCheck) (hlen : s'.inLen = s.inLen)
    (h : ∀ k < (if inCount s ≤ 65544 then inCount s - 32 else 6),
      Memory.read s'.mem (0x60000 + k) = Memory.read s.mem (0x60000 + k)) : parseState s' = parseState s := by
  have hcount : inCount s' = inCount s := congrArg BitVec.toNat hlen
  rw [parseState, parseState, hutf, htrail, hcount]
  exact parseReadsOnlySpan _ _ _ _ _ h

/-- Two operations complete with one STATUS and one P_* group, or both want a byte never written. -/
def SameAnswer (o o' : Host.Outcome State Fault Refusal) : Prop :=
  (∃ t t', o = .next t ∧ o' = .next t' ∧ t'.status = t.status ∧ t'.parsed = t.parsed) ∨
    (o = .fault .unwrittenInput ∧ o' = .fault .unwrittenInput)

theorem sameAnswer_finish {s s' : State} (h : s'.parsed = s.parsed) (code : ResultCode) (ev : EventKind) :
    SameAnswer (.next (finish s code ev)) (.next (finish s' code ev)) := .inl ⟨_, _, rfl, rfl, rfl, h⟩

/-- Steps 2 to 4 of INSPECT depend on the P_* group, their three reads, the allow-list and KeyV (R299). -/
theorem inspectParsed_congr {s s' : State} {r : ParsedFields} (hparsed : s'.parsed = s.parsed)
    (hid : bufRead s'.mem .inb 16 r.idLen.toNat = bufRead s.mem .inb 16 r.idLen.toNat)
    (hraw : bufRead s'.mem .inb 0 r.rawLen = bufRead s.mem .inb 0 r.rawLen)
    (htag : bufRead s'.mem .inb r.rawLen 32 = bufRead s.mem .inb r.rawLen 32)
    (hlist : inAllowList s' = inAllowList s) (hkey : keyV s' = keyV s) :
    SameAnswer (inspectParsed s r) (inspectParsed s' r) := by
  simp only [inspectParsed, Config.digestLen_eq, hid, hraw, htag, hlist, hkey]
  split
  · exact .inr ⟨rfl, rfl⟩
  split
  · split
    · split <;> exact sameAnswer_finish hparsed _ _
    · exact .inr ⟨rfl, rfl⟩
  · exact sameAnswer_finish hparsed _ _

/-- Settles O38: ParseCore gives one result in both states, and steps 2 to 4 run on it with the same operands. -/
theorem inspectIsPure : Obligations.InspectIsPure := by
  unfold Obligations.InspectIsPure
  intro s s' hl hl' hutf htrail hlen hctl hkeyLen hin hkey hallow
  have hp' : parseState s' = parseState s :=
    parseState_congr hutf htrail hlen fun k hk => hin k (by unfold inCount at hk; split at hk <;> split <;> omega)
  cases hp : parseState s with
  | unwritten =>
    exact .inr ⟨exec_faults_of_parse (.inr ⟨rfl, hl⟩) hp, exec_faults_of_parse (.inr ⟨rfl, hl'⟩) (hp'.trans hp)⟩
  | err code => exact .inl ⟨_, _, execInspect_of_err hl hp, execInspect_of_err hl' (hp'.trans hp), rfl, rfl⟩
  | ok r =>
    obtain ⟨-, hbytes, hraw, hid⟩ := parseState_ok_reads hp
    rw [show (if s.inLen.toNat ≤ 65544 then s.inLen.toNat else 6) = inCount s from hbytes] at hin
    rw [exec, exec, execInspect_of_ok hl hp, execInspect_of_ok hl' (hp'.trans hp)]
    exact inspectParsed_congr rfl (inbRead_congr hin hid) (inbRead_congr hin (by omega)) (inbRead_congr hin hraw.le)
      (inAllowList_congr hctl hallow) (keyV_congr hkeyLen hkey)

/-! ### Tampering -/

/-- The ID of a packet that parses lies before its tag (R258, R264). -/
theorem idEnd_le_rawLen {s : State} {r : ParsedFields} (h : parseState s = .ok r) : 16 + r.idLen.toNat ≤ r.rawLen := by
  obtain ⟨_, _, _, -, -, -, -, -, -, hspan⟩ := parseCore_ok h
  obtain ⟨_, _, _, _, _, -, -, -, -, -, -, -, -, hfit, -, -, -, -, -, -, hraw⟩ := parseSpan_ok hspan
  omega

/-- A packet that parses fits IN_BUF (R153, R251). -/
theorem rawLen_le_of_parseState {s : State} {r : ParsedFields} (h : parseState s = .ok r) : r.rawLen + 32 ≤ 65544 := by
  obtain ⟨hmin, hbytes, hraw, -⟩ := parseState_ok_reads h
  unfold packetBytes at hbytes
  split at hbytes
  next hfit => exact hraw.trans_le hfit
  · omega

section Stores

variable {s : State} {mem : Memory} (hstores : ∀ a < 0x60000, Memory.read mem a = Memory.read s.mem a)
include hstores

/-- A change to IN_BUF alone leaves KeyV. -/
theorem keyV_of_stores : keyV { s with mem := mem } = keyV s :=
  keyV_congr rfl fun k hk => hstores _ (by omega)

/-- A change to IN_BUF alone leaves the allow-list. -/
theorem inAllowList_of_stores : inAllowList { s with mem := mem } = inAllowList s :=
  inAllowList_congr rfl fun i k hk => hstores _ (by omega)

end Stores

/-- An accepted packet with a tag changed is AUTH_FAILED: all that INSPECT reads before the tag is as it was (R302). -/
theorem inspect_of_changedTag {s t : State} {mem : Memory} (h : exec .inspect s = .next t)
    (ha : t.status.accept = true)
    (hsame : ∀ a, ¬ (0x60000 + (s.inLen.toNat - 32) ≤ a ∧ a < 0x60000 + s.inLen.toNat) →
      Memory.read mem a = Memory.read s.mem a)
    (hw : Written mem (0x60000 + (s.inLen.toNat - 32)) 32)
    (hchanged : ∃ k < 32, Memory.read mem (0x60000 + (s.inLen.toNat - 32) + k)
      ≠ Memory.read s.mem (0x60000 + (s.inLen.toNat - 32) + k)) :
    ∃ r, t.parsed = parsedOf r ∧ exec .inspect { s with mem := mem } =
      .next (finish (writeParsed (copySource { s with mem := mem }) r) .authFailed .authFailed) := by
  obtain ⟨-, hl, r, g, m, tag, hp, ht, hg, hin, hm, htag, hv⟩ := inspect_of_accept h ha
  have hraw := rawLen_of_parseState hp
  rw [show s.inLen.toNat - 32 = r.rawLen by omega] at hsame hw hchanged
  have hbefore : ∀ k < r.rawLen, Memory.read mem (0x60000 + k) = Memory.read s.mem (0x60000 + k) :=
    fun k hk => hsame _ (by omega)
  have hstores : ∀ a < 0x60000, Memory.read mem a = Memory.read s.mem a := fun a ha => hsame a (by omega)
  obtain ⟨tag', htag'⟩ : ∃ tag', bufRead mem .inb r.rawLen 32 = some tag' := bytes_of_written hw
  have hne : tag' ≠ tag := by
    rintro rfl
    obtain ⟨k, hk, hdiff⟩ := hchanged
    obtain ⟨hlen, hheld⟩ := bufRead_eq_some.mp htag
    obtain ⟨-, hheld'⟩ := bufRead_eq_some.mp htag'
    exact hdiff ((hheld' k (by omega)).trans (hheld k (by omega)).symm)
  have hp' : parseState { s with mem := mem } = parseState s :=
    parseState_congr rfl rfl rfl fun k hk => hbefore k (by unfold inCount at hk; split at hk <;> omega)
  have hdecide := execInspect_listed (s := { s with mem := mem }) hl (hp'.trans hp)
    ((inbRead_congr hbefore (idEnd_le_rawLen hp)).trans hg) ((congrFun (inAllowList_of_stores hstores) g).trans hin)
    ((inbRead_congr hbefore (by omega)).trans hm) htag'
  rw [keyV_of_stores hstores, (verify_iff m tag (keyV s)).mp hv, if_neg hne.symm] at hdecide
  exact ⟨r, ht, hdecide⟩

theorem verify_eq_false_iff (m t k : List Byte) : verify m t k = false ↔ macTag k m ≠ t := by
  rw [← Bool.not_eq_true, verify_iff]

/-- What an acceptance says of the packet `raw` before the tag: the tag after it is MacFn's, and it all fits IN_BUF
(R295). -/
theorem tag_of_accept {s t : State} {k raw : List Byte} (h : exec .inspect s = .next t) (ha : t.status.accept = true)
    (hk : VerificationKey s k) (hlen : raw.length + 32 = s.inLen.toNat) (hheld : Holds s.mem 0x60000 raw) :
    s.ctrl.lock = true ∧ raw.length + 32 ≤ 65544 ∧ Holds s.mem (0x60000 + raw.length) (macTag k raw) := by
  obtain ⟨-, hl, r, g, m, tag, hp, -, -, -, hm, htag, hv⟩ := inspect_of_accept h ha
  have hraw := rawLen_of_parseState hp
  have hfit := rawLen_le_of_parseState hp
  obtain rfl := Option.some.inj ((inbRead_of_holds (show raw.length = r.rawLen by omega) hheld).symm.trans hm)
  rw [keyV_eq hk, verify_iff] at hv
  rw [← hv, show r.rawLen = raw.length by omega] at htag
  exact ⟨hl, by omega, (bufRead_eq_some.mp htag).2⟩

/-- Where INSPECT can end on a packet whose bytes before the tag are `raw` and whose tag is `tag`, all of it written: a
structural code, an ID not listed, or the verdict on the tag (R290). -/
theorem inspect_of_packet {s : State} {raw tag : List Byte} (hl : s.ctrl.lock = true)
    (hlen : raw.length + 32 = s.inLen.toNat) (htagLen : tag.length = 32) (hfit : raw.length + 32 ≤ 65544)
    (hheld : Holds s.mem 0x60000 (raw ++ tag)) :
    ∃ t, exec .inspect s = .next t ∧
      ((∃ u code, classOf code = 1 ∧ t = finish u code .decodeFailure) ∨
        (∃ g, g.length = t.parsed.idLen.toNat ∧ Holds s.mem (0x60000 + 16) g ∧ inAllowList s g = false ∧
          ∃ u, t = finish u .notAuthorized .unauthorizedGs) ∨
        (macTag (keyV s) raw ≠ tag ∧ ∃ u, t = finish u .authFailed .authFailed) ∨
        (macTag (keyV s) raw = tag ∧ ∃ u, t = finish u .ok .accepted)) := by
  have hwritten : Written s.mem 0x60000 (inCount s) := fun k hk => by
    rw [hheld k (by rw [List.length_append, htagLen]; exact hk.trans_eq hlen.symm)]
    rfl
  have hbytes : packetBytes (inCount s) = inCount s := if_pos (by rw [inCount, ← hlen]; exact hfit)
  obtain ⟨t, ht⟩ := writtenInputsComplete .inspect s fun _ _ => hbytes.symm ▸ hwritten
  refine ⟨t, ht, ?_⟩
  obtain ⟨hrawHeld, htagHeld⟩ := holds_append.mp hheld
  obtain ⟨hno, -⟩ | ⟨-, code, -, hcls, rfl⟩ | ⟨-, r, hp, hins⟩ := execInspect_cases ht
  · simp [hl] at hno
  · exact .inl ⟨_, code, hcls, rfl⟩
  · have hraw := rawLen_of_parseState hp
    obtain ⟨g, hg, ⟨hout, rfl⟩ | ⟨-, m, tag', hm, htag, hverdict⟩⟩ := inspectParsed_cases hins
    · obtain ⟨hgLen, hgHeld⟩ := bufRead_eq_some.mp hg
      exact .inr (.inl ⟨g, hgLen, hgHeld, hout, _, rfl⟩)
    · obtain rfl := Option.some.inj ((inbRead_of_holds (by omega) hrawHeld).symm.trans hm)
      obtain rfl := Option.some.inj
        ((inbRead_of_holds htagLen ((show raw.length = r.rawLen by omega) ▸ htagHeld)).symm.trans htag)
      obtain ⟨hv, rfl⟩ | ⟨hv, rfl⟩ := hverdict
      · exact .inr (.inr (.inr ⟨(verify_iff _ _ _).mp hv, _, rfl⟩))
      · exact .inr (.inr (.inl ⟨(verify_eq_false_iff _ _ _).mp hv, _, rfl⟩))

theorem OneBitApart.length_eq {m m' : List Byte} (h : OneBitApart m m') : m'.length = m.length := by
  obtain ⟨j, hj, i, -, rfl⟩ := h
  exact List.length_set

/-- Settles O39: the tag alone changed, and one bit before it changed with the old tag still in its place. -/
theorem tamperedTagIsRejected : Obligations.TamperedTagIsRejected := by
  unfold Obligations.TamperedTagIsRejected
  refine ⟨fun s t mem h ha hsame hw hchanged => ?_, fun s t mem k raw raw' h ha hk hlen hraw hraw' hbit hsame => ?_⟩
  · obtain ⟨r, hparsed, hdecide⟩ := inspect_of_changedTag h ha hsame hw hchanged
    exact ⟨_, hdecide, rfl, rfl, rfl, hparsed.symm⟩
  · obtain ⟨hl, hfit, htag⟩ := tag_of_accept h ha hk hlen hraw
    have hlen' := hbit.length_eq
    have htag' : Holds mem (0x60000 + raw'.length) (macTag k raw) := fun j hj => by
      rw [hlen', hsame _ (by omega)]
      exact htag j hj
    have hkey : keyV { s with mem := mem } = k :=
      (keyV_of_stores fun a ha => hsame a (by omega)).trans (keyV_eq hk)
    obtain ⟨t', ht', hcases⟩ := inspect_of_packet (s := { s with mem := mem }) hl (hlen'.symm ▸ hlen)
      (macTag_length k raw) (hlen'.symm ▸ hfit) (holds_append.mpr ⟨hraw', htag'⟩)
    rw [hkey, macTag_eq_iff, ne_eq, macTag_eq_iff] at hcases
    refine ⟨t', ht', ?_⟩
    obtain ⟨u, code, hcls, rfl⟩ | ⟨g, hg, hgHeld, hout, u, rfl⟩ | ⟨hne, u, rfl⟩ | ⟨heq, u, rfl⟩ := hcases
    · obtain ⟨hlo, hhi, -⟩ := structural_bits hcls
      have hno : (finish u code .decodeFailure).status.accept = false := by simp
      exact ⟨.inl ⟨hlo, hhi, hcls, hno⟩, fun _ => hno⟩
    · exact ⟨.inr (.inl ⟨rfl, rfl, rfl, g, hg, hgHeld, hout⟩), fun _ => rfl⟩
    · exact ⟨.inr (.inr (.inl ⟨rfl, rfl, rfl, hne⟩)), fun _ => rfl⟩
    · exact ⟨.inr (.inr (.inr ⟨rfl, rfl, heq⟩)),
        fun hdistinct => absurd heq.symm (hdistinct raw raw' (by rw [Config.inCap_eq]; omega) hbit)⟩

end Machine
end Sys2Proof
end

section
/-! SUPPORT. The statements of 60_exceptions.md: what a completion leaves, the three command errors, the tick, and the
configuration that stays fixed while LOCK = 1. -/

namespace Sys2Proof
namespace Machine

/-! ### The frozen configuration -/

/-- The registers of the lock-frozen set (R54) and the frozen fields of CTRL (R34). -/
def frozenRegs (s : State) : Bool × Bool × Bool × BitVec 11 × BitVec 9 × BitVec 9 × Vector AllowCtl 16 :=
  (s.ctrl.lock, s.ctrl.utf8Check, s.ctrl.trailCheck, s.apid, s.keySLen, s.keyVLen, s.allowCtl)

/-- The configuration is those registers and the bytes of the stores. -/
theorem sameConfig_iff {s t : State} :
    SameConfig s t ↔
      frozenRegs t = frozenRegs s ∧ ∀ a, isStore a = true → Memory.read t.mem a = Memory.read s.mem a := by
  simp only [frozenRegs, Prod.mk.injEq]
  constructor
  · rintro ⟨hlock, hutf, htrail, hapid, hkeyS, hkeyV, hallow, hstores⟩
    exact ⟨⟨hlock, hutf, htrail, hapid, hkeyS, hkeyV, hallow⟩, hstores⟩
  · rintro ⟨⟨hlock, hutf, htrail, hapid, hkeyS, hkeyV, hallow⟩, hstores⟩
    exact ⟨hlock, hutf, htrail, hapid, hkeyS, hkeyV, hallow, hstores⟩

theorem sameConfig_of_mem_eq {s t : State} (hregs : frozenRegs t = frozenRegs s) (hmem : t.mem = s.mem) :
    SameConfig s t := sameConfig_iff.mpr ⟨hregs, fun a _ => by rw [hmem]⟩

theorem sameConfig_refl (s : State) : SameConfig s s := sameConfig_of_mem_eq rfl rfl

theorem SameConfig.trans {s t u : State} (hst : SameConfig s t) (htu : SameConfig t u) : SameConfig s u := by
  rw [sameConfig_iff] at *
  exact ⟨htu.1.trans hst.1, fun a ha => (htu.2 a ha).trans (hst.2 a ha)⟩

/-- Whatever is stored in a buffer leaves the stores, which lie below all four (R101). -/
theorem read_store_writeBytes (m : Memory) {off a : Nat} (s : List Byte) (hoff : 0x10000 ≤ off)
    (ha : isStore a = true) : Memory.read (Memory.writeBytes m off s) a = Memory.read m a := by
  rw [isStore_iff] at ha
  exact read_writeBytes_other m off s (by omega)

/-- No operation writes the configuration: it is outside the frame of each (R145). -/
theorem sameConfig_exec {i : Instr} {s t : State} (h : exec i s = .next t) : SameConfig s t := by
  rw [sameConfig_iff]
  cases i with
  | macSign =>
    obtain ⟨hframe, -, hmem⟩ := macFrame.1 s t h
    exact ⟨(congrArg frozenRegs hframe).trans rfl, fun a _ => hmem a⟩
  | macVerify =>
    obtain ⟨hframe, hmem⟩ := macFrame.2 s t h
    exact ⟨(congrArg frozenRegs hframe).trans rfl, fun a _ => hmem a⟩
  | build =>
    obtain ⟨hframe, hok, hfail⟩ := buildFrame s t h
    refine ⟨(congrArg frozenRegs hframe).trans rfl, fun a ha => ?_⟩
    cases hs : t.status.ok with
    | true =>
      rw [isStore_iff] at ha
      exact hok hs a (by rw [base_out]; omega)
    | false => exact hfail hs a
  | parse =>
    obtain ⟨hframe, hmem⟩ := parseInspectFrame.1 s t h
    exact ⟨(congrArg frozenRegs hframe).trans rfl, fun a _ => hmem a⟩
  | inspect =>
    obtain ⟨hframe, hmem⟩ := parseInspectFrame.2 s t h
    exact ⟨(congrArg frozenRegs hframe).trans rfl, fun a _ => hmem a⟩

theorem sameConfig_engineStep {s t : State} (h : engineStep s = .next t) : SameConfig s t := by
  obtain ⟨-, rfl⟩ | ⟨-, i, -, hx⟩ := engineStep_cases h
  · exact sameConfig_refl _
  · exact sameConfig_exec hx

theorem sameConfig_issue (s : State) (w : Word) : SameConfig s (issue s w) := by
  unfold issue
  split
  · exact sameConfig_of_mem_eq rfl rfl
  · exact sameConfig_of_mem_eq rfl rfl

/-- A write to CTRL with LOCK = 1 takes TIME_RUN alone (R34). -/
theorem written_of_lock {c : Ctrl} (hl : c.lock = true) (w : Word) :
    c.written w = { c with timeRun := w.getLsbD 3 } := if_pos hl

/-- With LOCK = 1 no idle write changes the configuration, whatever the target its offset names (R54). -/
theorem sameConfig_writeIdle {s : State} (hl : s.ctrl.lock = true) (off : Nat) (w : Word) :
    SameConfig s (writeIdle s off w (targetAt off)) := by
  have frozen {t : Target} (ht : t.IsFrozen) : SameConfig s (writeIdle s off w t) := by
    rw [writeIdle_frozen hl ht]
    exact sameConfig_of_mem_eq rfl rfl
  cases ht : targetAt off with
  | ctrl =>
    rw [writeIdle, written_of_lock hl]
    exact sameConfig_of_mem_eq rfl rfl
  | op => exact sameConfig_issue s w
  | apid => exact frozen (.inl rfl)
  | keySLen => exact frozen (.inr (.inl rfl))
  | keyVLen => exact frozen (.inr (.inr (.inl rfl)))
  | allowCtl i => exact frozen (.inr (.inr (.inr (.inl ⟨i, rfl⟩))))
  | keyS => exact frozen (.inr (.inr (.inr (.inr (.inl rfl)))))
  | keyV => exact frozen (.inr (.inr (.inr (.inr (.inr (.inl rfl))))))
  | allowData => exact frozen (.inr (.inr (.inr (.inr (.inr (.inr rfl))))))
  | buf b =>
    have hbase : 0x10000 ≤ b.base := by cases b <;> decide
    have hoff : 0x10000 ≤ off := hbase.trans (targetAt_buf ht).1
    have store : SameConfig s (storeWord s off w) :=
      sameConfig_iff.mpr ⟨rfl, fun _ ha => read_store_writeBytes s.mem (laneBytes w) hoff ha⟩
    cases b with
    | out => exact sameConfig_refl s
    | gsid | cmdstr | inb => exact store
  | _ => exact sameConfig_of_mem_eq rfl rfl

/-- With LOCK = 1 no bus transfer changes the configuration. -/
theorem sameConfig_hostStep {s : State} (hl : s.ctrl.lock = true) (x : Transfer) : SameConfig s (hostStep s x) := by
  obtain ⟨-, hx⟩ | ⟨r, hx⟩ | ⟨off, -, -, -, hx⟩ | ⟨off, w, -, -, -, hx⟩ := hostStep_cases s x
  · rw [hx]
    exact sameConfig_refl s
  · rw [hx]
    exact sameConfig_of_mem_eq rfl rfl
  · rw [hx]
    exact sameConfig_of_mem_eq rfl rfl
  · have heff : SameConfig s (writeEffect s off w) := by
      unfold writeEffect
      split
      · exact sameConfig_of_mem_eq rfl rfl
      · exact sameConfig_writeIdle hl off w
    rw [hx]
    exact heff.trans (sameConfig_of_mem_eq rfl rfl)

theorem sameConfig_tickStep (s : State) : SameConfig s (tickStep s) := by
  unfold tickStep
  split
  · exact sameConfig_of_mem_eq rfl rfl
  · exact sameConfig_refl s

/-- With LOCK = 1 a step of any agent but RESET keeps the configuration. -/
theorem sameConfig_step {s t : State} (hl : s.ctrl.lock = true) (hr : Event.reset ∉ s.script)
    (h : step s = .next t) : SameConfig s t := by
  have turn (rest : List Event) : SameConfig s { s with script := rest } := sameConfig_of_mem_eq rfl rfl
  obtain ⟨-, he⟩ | ⟨rest, -, he⟩ | ⟨x, rest, -, rfl⟩ | ⟨rest, -, rfl⟩ | ⟨rest, hs, -⟩ := step_cases h
  · exact sameConfig_engineStep he
  · exact (turn rest).trans (sameConfig_engineStep he)
  · exact (turn rest).trans (sameConfig_hostStep (s := { s with script := rest }) hl x)
  · exact (turn rest).trans (sameConfig_tickStep _)
  · exact absurd (by simp [hs]) hr

/-- The turns left after a step hold a RESET only if the turns before it did. -/
theorem reset_not_mem_of_step {s t : State} (hr : Event.reset ∉ s.script) (h : step s = .next t) :
    Event.reset ∉ t.script := by
  rw [step_script h]
  exact fun hmem => hr (List.mem_of_mem_tail hmem)

/-- Settles O56: the configuration of `s`, LOCK among it, and the absence of a RESET are kept by every step, so by every
run. -/
theorem lockedConfigurationIsFixed : Obligations.LockedConfigurationIsFixed := by
  unfold Obligations.LockedConfigurationIsFixed
  intro k s t hl hr hrun
  have keeps : ∀ u v : State, SameConfig s u ∧ Event.reset ∉ u.script → step u = .next v →
      SameConfig s v ∧ Event.reset ∉ v.script := by
    rintro u v ⟨hsame, hru⟩ hstep
    have hlu : u.ctrl.lock = true := hsame.lock.trans hl
    exact ⟨hsame.trans (sameConfig_step hlu hru hstep), reset_not_mem_of_step hru hstep⟩
  exact (run_keeps keeps k s t ⟨sameConfig_refl s, hr⟩ hrun).1

/-! ### Completions -/

/-- Settles O8: every operation ends in `finish`, whose flag fields are those of its code and event. -/
theorem completionRule : Obligations.CompletionRule := by
  unfold Obligations.CompletionRule
  intro i s t h
  obtain ⟨u, code, ev, rfl, hirq, hopl, -, hev⟩ := exec_finishes h
  refine ⟨⟨code, ev, rfl, rfl, rfl, rfl, ?_, ?_, rfl, rfl, hev⟩, rfl, ?_, ?_, ?_, hopl⟩
  · simp
  · simp
  · simp [hirq]
  · simp [hirq]
  · simp [hirq]

/-! ### Command errors -/

/-- The state of a command error (R321, R322). -/
theorem finish_commandError (s : State) {code : ResultCode} (h : classOf code = 5) :
    finish s code .none =
      { s with
        status := { Status.zero with done := true, result := code.bits, cls := 5 }
        irqStatus := { s.irqStatus with done := true, cmdErr := true } } := by
  have hne : code ≠ .ok := by
    rintro rfl
    cases h
  simp [finish, Status.completed, Irq.afterCompletion, h, hne, Status.zero, EventKind.bits, severityOf]

/-- The lock check comes first in every operation but PARSE (R324). -/
theorem exec_notLocked {s : State} {i : Instr} (hl : s.ctrl.lock = false) (hi : i ≠ .parse) :
    exec i s = .next (finish s .notLocked .none) := by
  cases i with
  | parse => exact absurd rfl hi
  | macSign | macVerify | build | inspect => exact if_pos hl

/-- PARSE reads no LOCK and writes none (R270). -/
theorem execParse_setLock {s t : State} (b : Bool) (h : execParse s = .next t) :
    execParse { s with ctrl := { s.ctrl with lock := b } } = .next { t with ctrl := { t.ctrl with lock := b } } := by
  have hp : parseState { s with ctrl := { s.ctrl with lock := b } } = parseState s := rfl
  obtain ⟨code, he, -, rfl⟩ | ⟨r, hr, rfl⟩ := execParse_cases h
  · rw [execParse, hp, he]
    rfl
  · exact execParse_of_ok (hp.trans hr)

/-- Settles O9: the lock check of four operations, and the lock as an operand PARSE does not have. -/
theorem notLockedChangesNothing : Obligations.NotLockedChangesNothing := by
  unfold Obligations.NotLockedChangesNothing
  refine ⟨fun s i hl hi => ?_, fun s t b h => execParse_setLock b h⟩
  rw [exec_notLocked hl hi, finish_commandError s rfl]
  rfl

/-- The length check of the MAC operations comes second and reads no buffer byte (R203, R204). -/
theorem execMac_badLength {s : State} {i : Instr} (hl : s.ctrl.lock = true) (hbig : 65544 < s.inLen.toNat)
    (hi : i = .macSign ∨ i = .macVerify) : exec i s = .next (finish s .badLength .none) := by
  have hlock : ¬ s.ctrl.lock = false := by simp [hl]
  obtain rfl | rfl := hi
  · exact (if_neg hlock).trans (if_pos hbig)
  · exact (if_neg hlock).trans (if_pos hbig)

/-- BUILD, PARSE and INSPECT end with NOT_LOCKED or a code outside class 5, never with BAD_LENGTH (R325). -/
theorem result_of_not_mac {s t : State} {i : Instr} (hi : i = .build ∨ i = .parse ∨ i = .inspect)
    (h : exec i s = .next t) : ∃ code : ResultCode, t.status.result = code.bits ∧ code ≠ .badLength := by
  have ne_of_class {code : ResultCode} (hcls : classOf code ≠ 5) : code ≠ .badLength := by
    rintro rfl
    exact hcls rfl
  obtain rfl | rfl | rfl := hi
  · obtain rfl | ⟨code, hcls, rfl⟩ | ⟨g, c, -, -, -, -, -, rfl⟩ := execBuild_outcome h
    · exact ⟨.notLocked, rfl, by decide⟩
    · exact ⟨code, rfl, ne_of_class (by simp [hcls])⟩
    · exact ⟨.ok, rfl, by decide⟩
  · obtain ⟨code, -, hcls, rfl⟩ | ⟨r, -, rfl⟩ := execParse_cases h
    · exact ⟨code, rfl, ne_of_class (by simp [hcls])⟩
    · exact ⟨.ok, rfl, by decide⟩
  · obtain ⟨-, rfl⟩ | ⟨-, code, -, hcls, rfl⟩ | ⟨-, r, -, hins⟩ := execInspect_cases h
    · exact ⟨.notLocked, rfl, by decide⟩
    · exact ⟨code, rfl, ne_of_class (by simp [hcls])⟩
    · obtain ⟨g, -, ⟨-, rfl⟩ | ⟨-, m, tag, -, -, ⟨-, rfl⟩ | ⟨-, rfl⟩⟩⟩ := inspectParsed_cases hins
      · exact ⟨.notAuthorized, rfl, by decide⟩
      · exact ⟨.ok, rfl, by decide⟩
      · exact ⟨.authFailed, rfl, by decide⟩

/-- Settles O10: the length check of the MAC operations, and the codes the other three can end with, 0x32 being
BAD_LENGTH's alone (R170). -/
theorem badLengthOnlyFromMac : Obligations.BadLengthOnlyFromMac := by
  unfold Obligations.BadLengthOnlyFromMac
  refine ⟨fun s i hl hbig hi => ?_, fun s t i hi h => ?_⟩
  · rw [execMac_badLength hl hbig hi, finish_commandError s rfl]
    rfl
  · obtain ⟨code, hresult, hne⟩ := result_of_not_mac hi h
    rw [hresult]
    exact mt (resultCode_bits_injective code .badLength) hne

/-- The words of the five operations are 1 to 5 (R141). -/
theorem encode_toNat (i : Instr) : 1 ≤ (encode i).toNat ∧ (encode i).toNat ≤ 5 := by cases i <;> decide

/-- A word with a reserved bit set, or that is not 1 to 5, does not decode (R142, R143). -/
theorem decode_illegal {w : Word} (h : w.extractLsb' 8 24 ≠ 0 ∨ ¬ (1 ≤ w.toNat ∧ w.toNat ≤ 5)) :
    ∃ e, decode w = .error e := by
  cases hd : decode w with
  | error e => exact ⟨e, rfl⟩
  | ok i =>
    obtain rfl := decode_eq_ok_iff_eq_encode.mp hd
    exact h.elim (absurd (rsvdOf_encode i)) (absurd (encode_toNat i))

/-- The issue of a word that does not decode is its completion (R323). -/
theorem issue_of_error {w : Word} {e : DecodeReject} (h : decode w = .error e) (s : State) :
    issue s w = finish s .illegalOp .none := by
  rw [issue, h]

/-- Settles O6: while idle the write is the issue of a word that does not decode; while busy the interlock drops it. -/
theorem illegalWordCompletesAtOnce : Obligations.IllegalWordCompletesAtOnce := by
  unfold Obligations.IllegalWordCompletesAtOnce
  refine fun s rest w => ⟨fun hb hw => ?_, fun hb => ?_⟩
  · obtain ⟨e, he⟩ := decode_illegal hw
    rw [step_writeAt_idle hb rest w (t := .op) rfl (by decide) (by decide), writeIdle, issue_of_error he,
      finish_commandError _ rfl]
    rfl
  · have hdrop := writeEffect_busy (s := { s with script := rest }) hb 0x008 w rfl
    rw [step_writeAt s rest w (by decide) (by decide), hdrop]
    rfl

/-! ### The tick -/

/-- Settles O45: the two cases of TIME_RUN; the sum of 64-bit words wraps by itself (R343). -/
theorem tickAdvancesTime : Obligations.TickAdvancesTime := by
  unfold Obligations.TickAdvancesTime
  intro s rest
  cases hrun : s.ctrl.timeRun with
  | true =>
    refine ⟨s.time + 1, ?_, fun _ => BitVec.toNat_add s.time 1, fun h => (nomatch h)⟩
    rw [step_of_tick rfl, tickStep, if_pos hrun]
  | false =>
    refine ⟨s.time, ?_, fun h => (nomatch h), fun _ => rfl⟩
    rw [step_of_tick rfl, tickStep, if_neg (by simp [hrun])]

end Machine
end Sys2Proof
end

section
/-! SUPPORT. The statements of 70_reset_and_hazards.md: an operation in flight on written inputs completes within the
turns listed (R375). -/

namespace Sys2Proof
namespace Machine

/-! ### The operation in flight -/

/-- The operation `i` is in flight, and every buffer byte it reads was written since reset (R113, R118). -/
structure InFlight (i : Instr) (s : State) : Prop where
  busy : s.status.busy = true
  fetched : fetch s = some i
  written : InputsWritten i s

/-- What the busy interlock keeps includes the operation in flight and its inputs (R116). -/
theorem InFlight.of_busyFrame {i : Instr} {s t : State} (h : InFlight i s) (hf : BusyFrame s t) : InFlight i t := by
  unfold BusyFrame at hf
  rw [hf]
  exact ⟨h.busy, h.fetched, h.written⟩

/-- Every completion leaves BUSY = 0 and DONE = 1 (R322). -/
theorem exec_busy_done {i : Instr} {s t : State} (h : exec i s = .next t) :
    t.status.busy = false ∧ t.status.done = true := by
  obtain ⟨u, code, ev, rfl, -⟩ := exec_finishes h
  exact ⟨rfl, rfl⟩

/-- The ENGINE's turn completes the operation in flight (R118). -/
theorem InFlight.completes {i : Instr} {s : State} (h : InFlight i s) :
    ∃ t, engineStep s = .next t ∧ t.status.busy = false ∧ t.status.done = true := by
  obtain ⟨t, ht⟩ := writtenInputsComplete i s h.written
  exact ⟨t, (engineStep_busy h.busy h.fetched).trans ht, exec_busy_done ht⟩

/-! ### Completion within the listed turns -/

/-- Settles O60, by induction on the turns listed: a turn of the HOST or the TICK leaves the operation in flight and one
turn fewer, and the ENGINE's turn, at the latest the one after the list, completes it. -/
theorem operationInFlightCompletes : Obligations.OperationInFlightCompletes := by
  unfold Obligations.OperationInFlightCompletes
  intro s i hb hf hw hr
  have h : InFlight i s := ⟨hb, hf, hw⟩
  clear hb hf hw
  induction hs : s.script generalizing s with
  | nil =>
    obtain ⟨t, ht, hdone⟩ := h.completes
    exact ⟨1, t, by simp, run_one ((step_of_empty hs).trans ht), hdone⟩
  | cons e rest ih =>
    by_cases he : e = .engine
    · subst he
      obtain ⟨t, ht, hdone⟩ := (h.of_busyFrame (t := { s with script := rest }) rfl).completes
      exact ⟨1, t, by simp, run_one ((step_of_engine hs).trans ht), hdone⟩
    · have hne : e ≠ .reset := by
        rintro rfl
        exact hr (by simp [hs])
      obtain ⟨u, hstep, hrest, hframe⟩ := step_busyFrame h.busy hs ⟨he, hne⟩
      obtain ⟨k, t, hk, hrun, hdone⟩ := ih u (reset_not_mem_of_step hr hstep) (h.of_busyFrame hframe) hrest
      exact ⟨k + 1, t, Nat.succ_le_succ hk, run_succ.mpr ⟨u, hstep, hrun⟩, hdone⟩

end Machine
end Sys2Proof
end
